-- ==== Sys2Proof/Word.lean ====
section
/-! DEFINITION. The word types of the device (spec/00_scope.md R6, R7): every value is unsigned. -/

namespace Sys2Proof

/-- `BYTE` of R6: 8 bits, unsigned. -/
abbrev Byte := BitVec 8

/-- `OFFSET_WIDTH` of R6: 16 bits, unsigned. -/
abbrev Half := BitVec 16

/-- The 32-bit words of the checksum (R70) and of the header frame F (R52). -/
abbrev Word := BitVec 32

end Sys2Proof
end

