-- ==== Sys2Proof/Config.lean ====
section
/-! DEFINITION. The implementation parameters of spec/00_scope.md R6, and the model's free values. -/

namespace Sys2Proof

/-- The parameters of R6 that change behaviour and that the spec leaves to choose. Each field's default is the spec's.
A State carries one such record and no step changes it, so a claim can hold for every choice (R105; log 14). -/
structure Params where
  /-- `POS_WIDTH` (R6, R76, D1): `none` is the unbounded counter, `some w` a counter of `w` bits. -/
  posWidth : Option Nat := none
  /-- `SNAPSHOT_FULL` (R6, R103, R105, D14). -/
  snapshotFull : Bool := false
  deriving DecidableEq, Repr

/-- FREE VALUE: `draw()` of spec/20_memory.md R36 and R38, "any byte", one for each index (log 10). It has no body. -/
opaque Config.draw : Nat → Byte

/-- FREE VALUE: `SESSION_ID` of R6, "opaque identifier naming the store" (D26; log 25). -/
opaque Config.sessionId : String

/-- FREE VALUE: the folder `user-data-dir` of R44, which is outside the spec (D26; log 25). -/
opaque Config.userDataDir : String

/-- The store file's path (R44). `State.file` holds what is stored there. -/
def Config.storePath : String := Config.userDataDir ++ "/tribackup_" ++ Config.sessionId ++ ".bin"

end Sys2Proof
end

