-- ==== Sys2Proof/Syntax.lean ====
section
/-! DEFINITION. The commands of spec/30_encoding.md R55: one constructor for each row of spec/opcode_table.json. -/

namespace Sys2Proof

/-- A command with the header bytes its row leaves open (R51, R55): `a` and `b` are the arguments, `c` the checksum byte
as sent, `o` the opcode of an unrecognised command. -/
inductive Instr where
  /-- Row IDREAD, `00 00 B C` (R68). -/
  | idread (b c : Byte)
  /-- Row SETOFF, `01 A B C` (R81). -/
  | setoff (a b c : Byte)
  /-- Row BKWR, `02 A B C` (R82). -/
  | bkwr (a b c : Byte)
  /-- Row BKRD, `03 A B C` (R83, R84). -/
  | bkrd (a b c : Byte)
  /-- Row CMD05, `05 A B C` (R85). -/
  | cmd05 (a b c : Byte)
  /-- Row STATRD, `82 A B C` (R86, R87). -/
  | statrd (a b c : Byte)
  /-- Row CMD83, `83 A B C` (R88). -/
  | cmd83 (a b c : Byte)
  /-- Row CMD86, `86 A B C` (R89, R90). -/
  | cmd86 (a b c : Byte)
  /-- Row CMD87, `87 A B C` (R91). -/
  | cmd87 (a b c : Byte)
  /-- Row IRQARM, `FF 00 00 C` (R93). -/
  | irqarm (c : Byte)
  /-- Row IRQCLR, `FF 02 01 C` (R94). -/
  | irqclr (c : Byte)
  /-- Row IRQCTL, `FF A B C` with another selector (R95). -/
  | irqctl (a b c : Byte)
  /-- Row UNKNOWN: every other header (R57, R96). -/
  | unknown (o a b c : Byte)
  deriving DecidableEq, Repr

end Sys2Proof
end

