-- ==== Sys2Proof/Machine/State.lean ====
section
/-! DEFINITION. The machine's state as plain data (spec/10_state.md R13, R27, R28), its operations from outside
(spec/00_scope.md R5), what an operation hands back, its events, the reasons a step stops, and the state after construction
(R32, spec/70_reset_and_hazards.md R123). -/

namespace Sys2Proof.Machine

/-- `command_buffer`: exactly 4 bytes (R17). `none` is the spec's "no value" (R13, R18). -/
structure CmdBuffer where
  b0 : Option Byte
  b1 : Option Byte
  b2 : Option Byte
  b3 : Option Byte
  deriving DecidableEq, Repr

/-- Transaction state (R13): `position` (R16) and `command_buffer` (R17). -/
structure Engine where
  position : Nat
  cmd : CmdBuffer
  deriving DecidableEq, Repr

/-- The interrupt latch (R13): `have_irq` (R22), `irq_timer` (R23), `irq_status` (R25). -/
structure Latch where
  haveIrq : Bool
  irqTimer : Nat
  irqStatus : Byte
  deriving DecidableEq, Repr

/-- Bytes by address. An address that is not listed holds an unspecified byte: `store.bytes a = none` (R13, R36). -/
abbrev Memory := List Host.Cell

/-- Store contents: `store.bytes` and `store.len` (R28). -/
structure Blob where
  bytes : Memory
  len : Nat
  deriving DecidableEq, Repr

/-- The open backup store: its contents and `store.cursor`, where `none` is the unspecified cursor (R28, R38). -/
structure Store where
  blob : Blob
  cursor : Option Nat
  deriving DecidableEq, Repr

/-- Why the device faulted (R108). The only reason this hardware raises is `ContinuationUndefined`. -/
inductive FaultReason where
  | continuationUndefined (opcode : Byte) (position : Nat)
  deriving DecidableEq, Repr

/-- The kinds of diagnostic event and their arguments (R107). -/
inductive Diagnostic where
  | checksumMismatch (received computed : Byte)
  | unknownOpcode (o a b : Byte)
  | commandLog (o a b : Byte)
  deriving DecidableEq, Repr

/-- `Events := list of Notify | Diag(kind, args)` (R13). -/
inductive Event where
  | notify
  | diag (d : Diagnostic)
  deriving DecidableEq, Repr

/-- The three fields a snapshot holds only with `SNAPSHOT_FULL`, in the order of R103. -/
structure SnapshotExtra where
  backupOffset : Half
  irqTimer : Nat
  irqStatus : Byte
  deriving DecidableEq, Repr

/-- The tuple Save returns and Restore takes (spec/43_snapshot.md R103, R104), in its field order. -/
structure Snapshot where
  position : Nat
  haveIrq : Bool
  cmd : CmdBuffer
  extra : Option SnapshotExtra
  deriving DecidableEq, Repr

/-- The operations performed on the device from outside: the bus's (R29), the snapshot facility's (R103, R104) and the
platform's (R123, R124). -/
inductive Operation where
  | chipSelect (asserted : Bool)
  | exchange (input : Byte)
  | poll
  | save
  | restore (t : Snapshot)
  | teardown
  /-- Construction; `opens` says whether `open` succeeds (R123, D13). -/
  | construct (opens : Bool)
  deriving DecidableEq, Repr

/-- What a completed operation hands back to its caller (R10). -/
inductive Reply where
  | byte (b : Byte)
  | irq (v : Bool)
  | snapshot (t : Snapshot)
  deriving DecidableEq, Repr

/-- The machine. The first six fields are those of R13; `file` and `present` are the store file and the lifecycle, `params` the
parameters; the last three are the model's own (log 2, log 3, log 10). -/
structure State where
  engine : Engine
  /-- `backup_offset` (R20, R21). -/
  backupOffset : Half
  latch : Latch
  /-- The sticky fault (R27, R108). -/
  fault : Option FaultReason
  store : Store
  /-- The event list, oldest first (R13, R31). -/
  events : List Event
  /-- The durable contents of the store file; `none` where there is no file (R40, R123, R124; log 24). -/
  file : Option Blob
  /-- Whether the device is constructed (R122 to R124; log 23). -/
  present : Bool
  params : Params
  /-- Operations issued and not yet performed, oldest first (R5; log 2). -/
  pending : List Operation
  /-- What completed operations handed back, oldest first (R10; log 3). -/
  replies : List Reply
  /-- How many free values have been drawn (R36, R38; log 10). -/
  draws : Nat
  deriving DecidableEq, Repr

/-- Why a step stops with a fault. -/
inductive Fault where
  /-- Raised by every operation but teardown, and by a step with nothing pending, while `fault` is set: "no operation has a
  step" (R109, D6). Safe: no claim about a next state can be proved from there. -/
  | stuck (r : FaultReason)
  deriving DecidableEq, Repr

/-- Why a step has no meaning in the model. -/
inductive Refusal where
  /-- Raised by an arm of `exec` that has no meaning yet; none is left. Safe. -/
  | notModelled (mnemonic : String)
  /-- Raised by BKWR at position 4 while the cursor is unspecified (R39, R110, D9). Safe. -/
  | writeAtUnspecifiedCursor
  /-- Raised by an exchange whose next position does not fit a finite `POS_WIDTH` (R76, R110, D1). Safe. -/
  | positionOverflow
  /-- Raised by every operation but construction while no device is constructed (R124: "every device field is gone"). Safe. -/
  | noDevice
  /-- Raised by construction while the device is constructed (R123: "constructed once"). Safe. -/
  | alreadyConstructed
  /-- Raised by restore, with `SNAPSHOT_FULL`, of a tuple without the three further fields (R104: a tuple of the shape
  Save returns). Safe. -/
  | snapshotShape
  deriving DecidableEq, Repr

/-- What one step, or one operation, answers. -/
abbrev Result := Host.Outcome State Fault Refusal

/-- `cmd[0..3]` with no value (R32). -/
def CmdBuffer.empty : CmdBuffer := ⟨none, none, none, none⟩

/-- Transaction state after construction (R32). -/
def Engine.initial : Engine := ⟨0, CmdBuffer.empty⟩

/-- The latch after construction (R32, R101). -/
def Latch.initial : Latch := ⟨false, 0, 0x00⟩

/-- A store file that has just been created (R32: "created empty if absent"). -/
def Blob.empty : Blob := ⟨[], 0⟩

/-- The state after construction (R32, R123) with the given parameters, on a store file with the given contents
(`STORE_INIT`), or on none. -/
def State.constructed (params : Params) (file : Option Blob) : State where
  engine := Engine.initial
  backupOffset := 0x0000
  latch := Latch.initial
  fault := none
  store := ⟨file.getD Blob.empty, some 0⟩
  events := []
  file := some (file.getD Blob.empty)
  present := true
  params := params
  pending := []
  replies := []
  draws := 0

/-- The machine right after reset: construction with the spec's default parameters where the store file was absent (R6, R32;
log 8, log 14). -/
def State.reset : State := State.constructed {} none

end Sys2Proof.Machine
end

