-- ==== Sys2Proof/Machine/Ops.lean ====
section
/-! DEFINITION. The named operations: one update for each field of State, the command buffer, store memory, the store contract
(spec/20_memory.md R36 to R40), free values, events (spec/60_exceptions.md R107, R116), the conditions under which an operation
has a step (R109, R110), the answer of an exchange (spec/40_engine.md R75), and raising the fault (R108). There is no return
from a fault (R112). -/

namespace Sys2Proof.Machine

/-! ### One update for each field -/

def State.withPosition (s : State) (p : Nat) : State := { s with engine := { s.engine with position := p } }
def State.withCmd (s : State) (b : CmdBuffer) : State := { s with engine := { s.engine with cmd := b } }
def State.withOffset (s : State) (o : Half) : State := { s with backupOffset := o }
def State.withLatch (s : State) (l : Latch) : State := { s with latch := l }
def State.withFault (s : State) (f : Option FaultReason) : State := { s with fault := f }
def State.withBlob (s : State) (b : Blob) : State := { s with store := { s.store with blob := b } }
def State.withCursor (s : State) (c : Option Nat) : State := { s with store := { s.store with cursor := c } }
def State.withFile (s : State) (f : Option Blob) : State := { s with file := f }
def State.withPending (s : State) (l : List Operation) : State := { s with pending := l }
def State.withDraws (s : State) (n : Nat) : State := { s with draws := n }
def State.addEvent (s : State) (e : Event) : State := { s with events := s.events ++ [e] }
def State.addReply (s : State) (r : Reply) : State := { s with replies := s.replies ++ [r] }

/-! ### The command buffer (R17) -/

/-- `cmd[k]`; there is no fifth byte. -/
def CmdBuffer.get (b : CmdBuffer) (k : Nat) : Option Byte :=
  match k with
  | 0 => b.b0
  | 1 => b.b1
  | 2 => b.b2
  | 3 => b.b3
  | _ => none

/-- `cmd[k] <- v`; "bytes beyond 4 are not captured into this buffer" (R17). -/
def CmdBuffer.set (b : CmdBuffer) (k : Nat) (v : Byte) : CmdBuffer :=
  match k with
  | 0 => { b with b0 := some v }
  | 1 => { b with b1 := some v }
  | 2 => { b with b2 := some v }
  | 3 => { b with b3 := some v }
  | _ => b

/-- A buffer that holds a whole header. -/
def CmdBuffer.ofHeader (o a b c : Byte) : CmdBuffer := ⟨some o, some a, some b, some c⟩

/-! ### Store memory (R36) -/

/-- The byte listed at an address. An unlisted address has an unspecified byte (log 10). -/
def Memory.get : Memory → Nat → Option Byte
  | [], _ => none
  | (k, v) :: rest, a => if k = a then some v else Memory.get rest a

/-- List a byte at its place in the order of addresses. -/
def Memory.put : Memory → Nat → Byte → Memory
  | [], a, v => [(a, v)]
  | (k, w) :: rest, a, v =>
    if a < k then (a, v) :: (k, w) :: rest
    else if a = k then (a, v) :: rest
    else (k, w) :: Memory.put rest a v

/-- Make every address from `lo` up to `hi` (not included) unspecified. -/
def Memory.dropRange (m : Memory) (lo hi : Nat) : Memory :=
  m.filter fun cell => !(decide (lo ≤ cell.1) && decide (cell.1 < hi))

/-- The canonical form: addresses strictly rising. No entry equals what an unlisted address holds, which is no byte at all. -/
def Memory.wf : Memory → Bool
  | [] => true
  | (k, _) :: rest => rest.all (fun cell => decide (k < cell.1)) && Memory.wf rest

/-- Canonical store contents: the bytes are, and each lies below `len` (R34: addresses `0 .. store.len - 1`). -/
def Blob.wf (b : Blob) : Bool :=
  Memory.wf b.bytes && b.bytes.all (fun cell => decide (cell.1 < b.len))

/-- The byte `MemRead(a, 1)` finds (R36); `none` where the address is past the end or its byte unspecified. -/
def Blob.read (b : Blob) (a : Nat) : Option Byte :=
  if a < b.len then Memory.get b.bytes a else none

/-- `MemWrite(a, 1, v)` (R36): the gap between the old end and `a` is unspecified, and the blob grows to hold `a`. -/
def Blob.write (b : Blob) (a : Nat) (v : Byte) : Blob :=
  { bytes := Memory.put (Memory.dropRange b.bytes b.len a) a v, len := max b.len (a + 1) }

/-! ### Free values and events -/

/-- `draw()`: any byte (R36, R38). -/
def drawByte (s : State) : Byte × State := (Config.draw s.draws, s.withDraws (s.draws + 1))

/-- `Notify()`: one notification event (R116). -/
def notify (s : State) : State := s.addEvent .notify

/-- `Diag(kind, args)`: one diagnostic event (R107). -/
def diag (d : Diagnostic) (s : State) : State := s.addEvent (.diag d)

/-! ### The store contract -/

/-- `StoreSeek(o)` (R37). -/
def storeSeek (o : Half) (s : State) : State := s.withCursor (some o.toNat)

/-- `MemRead(a, 1)` (R36): an unspecified byte is drawn. -/
def memRead (a : Nat) (s : State) : Byte × State :=
  match s.store.blob.read a with
  | some b => (b, s)
  | none => drawByte s

/-- `StoreRead()` (R38): inside the blob the cursor advances; past the end the byte is drawn and the cursor becomes
unspecified; at an unspecified cursor the byte is drawn. -/
def storeRead (s : State) : Byte × State :=
  match s.store.cursor with
  | some c =>
    if c < s.store.blob.len then ((memRead c s).1, (memRead c s).2.withCursor (some (c + 1)))
    else ((drawByte s).1, (drawByte s).2.withCursor none)
  | none => drawByte s

/-- `StoreWrite(b)` (R39). -/
def storeWrite (v : Byte) (s : State) : Result :=
  match s.store.cursor with
  | some c => .next ((s.withBlob (s.store.blob.write c v)).withCursor (some (c + 1)))
  | none => .refused .writeAtUnspecifiedCursor

/-- `StoreFlush()` (R40): the store file holds every earlier write. -/
def storeFlush (s : State) : State := s.withFile (some s.store.blob)

/-! ### Results -/

/-- Go on from a next state; a fault or a refusal ends the operation. -/
def andThen (r : Result) (k : State → Result) : Result :=
  match r with
  | .next s => k s
  | .fault f => .fault f
  | .refused f => .refused f

/-- An operation of a constructed device has a step only while `fault` is `none` (R109). -/
def whileLive (s : State) (r : Result) : Result :=
  if s.present then
    match s.fault with
    | some f => .fault (.stuck f)
    | none => r
  else .refused .noDevice

/-- The counter of a finite `POS_WIDTH` has no room for the position after `p` (R76; log 15). -/
def Params.full (q : Params) (p : Nat) : Bool :=
  match q.posWidth with
  | none => false
  | some w => decide (2 ^ w ≤ p + 1)

/-- An exchange whose next position does not fit is refused (R76, R110). -/
def whileRoom (s : State) (r : Result) : Result :=
  if Params.full s.params s.engine.position then .refused .positionOverflow else r

/-- The end of a completed exchange: `position <- p + 1; return output` (R65, R75). -/
def answer (out : Byte) (s : State) : Result :=
  .next ((s.withPosition (s.engine.position + 1)).addReply (.byte out))

/-- `raise Fault(reason)` (R108): `fault` is set, no byte is returned and no other field changes. -/
def raiseFault (f : FaultReason) (s : State) : Result := .next (s.withFault (some f))

/-- The fault of an opcode with no continuation (R97). -/
def continuationFault (o : Byte) (s : State) : Result :=
  raiseFault (.continuationUndefined o s.engine.position) s

end Sys2Proof.Machine
end

