-- ==== Sys2Proof/Machine/Checksum.lean ====
section
/-! DEFINITION. The checksum algorithm and the validator of position 3 (spec/40_engine.md R69, R70). -/

namespace Sys2Proof.Machine

/-- `CS_POLY_INIT` (spec/00_scope.md R6). -/
def csPolyInit : Word := 0x8D800000

/-- The first mask (R70). -/
def csMaskInit : Word := 0x80000000

/-- The message word: byte 0 most significant, low byte zero (R70, R41). -/
def checksumWord (b0 b1 b2 : Byte) : Word :=
  (b0.setWidth 32 <<< 24) ||| (b1.setWidth 32 <<< 16) ||| (b2.setWidth 32 <<< 8)

/-- `n` iterations of R70's loop on the word, the mask and the polynomial register. -/
def checksumLoop : Nat → Word → Word → Word → Word
  | 0, w, _, _ => w
  | n + 1, w, mask, poly =>
    checksumLoop n (if w &&& mask = 0 then w else w ^^^ poly) (mask >>> 1) (poly >>> 1)

/-- The word after the 24 iterations (R70, spec/90_conflicts.md C2). -/
def checksumFinal (b0 b1 b2 : Byte) : Word := checksumLoop 24 (checksumWord b0 b1 b2) csMaskInit csPolyInit

/-- `Checksum(b0, b1, b2)`: the low byte (R70). -/
def checksum (b0 b1 b2 : Byte) : Byte := (checksumFinal b0 b1 b2).extractLsb' 0 8

/-- Step 3 (R69): a mismatch records one event and changes nothing else. -/
def checkHeader (o a b c : Byte) (s : State) : State :=
  if checksum o a b = c then s else diag (.checksumMismatch c (checksum o a b)) s

end Sys2Proof.Machine
end

