-- ==== Sys2Proof/Machine/Commands.lean ====
section
/-! DEFINITION. What every command but IDREAD shares at each position of its transaction (spec/40_engine.md R65, R77). -/

namespace Sys2Proof.Machine

/-- One exchange of the command with header `o a b c` at the current position, after step 1: the gap answers 0xFF (R74),
position 3 checks the header (R69), position 4 dispatches (R72), later positions continue (R73). -/
def runCommand (o a b c : Byte) (dispatch continuation : State → Result) (s : State) : Result :=
  whileLive s (whileRoom s (
    if s.engine.position < 3 then answer 0xFF s
    else if s.engine.position = 3 then answer 0xFF (checkHeader o a b c s)
    else if s.engine.position = 4 then dispatch s
    else continuation s))

/-- `output <- 0x04; Diag(CommandLog, O, A, B)` (R86, R88, R89, R91). -/
def logAndAnswer (o a b : Byte) (s : State) : Result := answer 0x04 (diag (.commandLog o a b) s)

end Sys2Proof.Machine
end

