-- ==== Sys2Proof/WellFormed.lean ====
section
/-! DEFINITION. Which commands are the reading of some header (spec/30_encoding.md R55 to R57). -/

namespace Sys2Proof

/-- `O A` is a header that R57 does not count as unrecognised: opcode 0x00 with `A = 0x00`, or a listed opcode. -/
def recognised (o a : Byte) : Bool :=
  (o == 0x00 && a == 0x00) || o == 0x01 || o == 0x02 || o == 0x03 || o == 0x05 || o == 0x82 || o == 0x83 || o == 0x86 ||
    o == 0x87 || o == 0xFF

/-- The selector `(A, B)` is the one that arms or the one that clears (R53, R92). -/
def namedSelector (a b : Byte) : Bool :=
  (a == 0x00 && b == 0x00) || (a == 0x02 && b == 0x01)

/-- An IRQCTL has a selector of no other row, and an UNKNOWN a header of no other row (R55, R57). -/
def Instr.wf : Instr → Bool
  | .idread _ _ => true
  | .setoff _ _ _ => true
  | .bkwr _ _ _ => true
  | .bkrd _ _ _ => true
  | .cmd05 _ _ _ => true
  | .statrd _ _ _ => true
  | .cmd83 _ _ _ => true
  | .cmd86 _ _ _ => true
  | .cmd87 _ _ _ => true
  | .irqarm _ => true
  | .irqclr _ => true
  | .irqctl a b _ => !namedSelector a b
  | .unknown o a _ _ => !recognised o a

end Sys2Proof
end

