-- ==== Sys2Proof/Decode.lean ====
section
/-! DEFINITION. Reading a header (spec/30_encoding.md R51, R52, R55, R56), the encoder, and the rows of
spec/opcode_table.json as masks and patterns over the frame word F. -/

namespace Sys2Proof

/-- Why a list of bytes is no header. -/
inductive DecodeError where
  /-- Fewer than the 4 bytes of a header (R59): `given` bytes were there. Safe: no command is read. -/
  | shortHeader (given : Nat)
  deriving DecidableEq, Repr

/-- `Decode(O, A, B)` of R56, with the checksum byte kept. Total: every header is a command. -/
def decodeHeader (o a b c : Byte) : Instr :=
  if o = 0x00 ∧ a = 0x00 then .idread b c
  else if o = 0x01 then .setoff a b c
  else if o = 0x02 then .bkwr a b c
  else if o = 0x03 then .bkrd a b c
  else if o = 0x05 then .cmd05 a b c
  else if o = 0x82 then .statrd a b c
  else if o = 0x83 then .cmd83 a b c
  else if o = 0x86 then .cmd86 a b c
  else if o = 0x87 then .cmd87 a b c
  else if o = 0xFF then
    if a = 0x00 ∧ b = 0x00 then .irqarm c
    else if a = 0x02 ∧ b = 0x01 then .irqclr c
    else .irqctl a b c
  else .unknown o a b c

/-- The command read from the first four bytes, in the order the bus sends them (R51), and the bytes after it. -/
def decode : List Byte → Except DecodeError (Instr × List Byte)
  | o :: a :: b :: c :: rest => .ok (decodeHeader o a b c, rest)
  | short => .error (.shortHeader short.length)

/-- The four header bytes of a command, first byte first, from the encodings of R55 and spec/opcode_table.json. -/
def encode : Instr → List Byte
  | .idread b c => [0x00, 0x00, b, c]
  | .setoff a b c => [0x01, a, b, c]
  | .bkwr a b c => [0x02, a, b, c]
  | .bkrd a b c => [0x03, a, b, c]
  | .cmd05 a b c => [0x05, a, b, c]
  | .statrd a b c => [0x82, a, b, c]
  | .cmd83 a b c => [0x83, a, b, c]
  | .cmd86 a b c => [0x86, a, b, c]
  | .cmd87 a b c => [0x87, a, b, c]
  | .irqarm c => [0xFF, 0x00, 0x00, c]
  | .irqclr c => [0xFF, 0x02, 0x01, c]
  | .irqctl a b c => [0xFF, a, b, c]
  | .unknown o a b c => [o, a, b, c]

/-- The frame word `F` of R52: the first byte is the most significant. -/
def frameWord (o a b c : Byte) : Word :=
  (o.setWidth 32 <<< 24) ||| (a.setWidth 32 <<< 16) ||| (b.setWidth 32 <<< 8) ||| c.setWidth 32

/-- The header bytes of a frame word, first byte first (R52). -/
def frameBytes (f : Word) : List Byte :=
  [f.extractLsb' 24 8, f.extractLsb' 16 8, f.extractLsb' 8 8, f.extractLsb' 0 8]

/-- What this decoder reads from a table row's bits: the row is one 32-bit frame word (R52), and the bits above `nbits`
are 0. A row of more than 32 bits is no frame. -/
def decodeTableWord (nbits w : Nat) : Option Instr :=
  if nbits ≤ 32 then
    match decode (frameBytes (BitVec.ofNat 32 (w % 2 ^ nbits))) with
    | .ok (i, _) => some i
    | .error _ => none
  else none

/-- A row of spec/opcode_table.json: its mnemonic, and its mask and match over the frame word (R52). -/
structure TableRow where
  mnemonic : String
  mask : Word
  pattern : Word
  deriving DecidableEq, Repr

/-- The 13 rows of spec/opcode_table.json in decode order (R55). -/
def tableRows : List TableRow :=
  [⟨"IDREAD", 0xFFFF0000, 0x00000000⟩,
   ⟨"SETOFF", 0xFF000000, 0x01000000⟩,
   ⟨"BKWR", 0xFF000000, 0x02000000⟩,
   ⟨"BKRD", 0xFF000000, 0x03000000⟩,
   ⟨"CMD05", 0xFF000000, 0x05000000⟩,
   ⟨"STATRD", 0xFF000000, 0x82000000⟩,
   ⟨"CMD83", 0xFF000000, 0x83000000⟩,
   ⟨"CMD86", 0xFF000000, 0x86000000⟩,
   ⟨"CMD87", 0xFF000000, 0x87000000⟩,
   ⟨"IRQARM", 0xFFFFFF00, 0xFF000000⟩,
   ⟨"IRQCLR", 0xFFFFFF00, 0xFF020100⟩,
   ⟨"IRQCTL", 0xFF000000, 0xFF000000⟩,
   ⟨"UNKNOWN", 0x00000000, 0x00000000⟩]

/-- "The first row that matches decides" (R55). -/
def firstRow (f : Word) : Option String :=
  (tableRows.find? fun r => f &&& r.mask == r.pattern).map (·.mnemonic)

/-- The mnemonic of a command's row (R55). -/
def Instr.mnemonic : Instr → String
  | .idread _ _ => "IDREAD"
  | .setoff _ _ _ => "SETOFF"
  | .bkwr _ _ _ => "BKWR"
  | .bkrd _ _ _ => "BKRD"
  | .cmd05 _ _ _ => "CMD05"
  | .statrd _ _ _ => "STATRD"
  | .cmd83 _ _ _ => "CMD83"
  | .cmd86 _ _ _ => "CMD86"
  | .cmd87 _ _ _ => "CMD87"
  | .irqarm _ => "IRQARM"
  | .irqclr _ => "IRQCLR"
  | .irqctl _ _ _ => "IRQCTL"
  | .unknown _ _ _ _ => "UNKNOWN"

end Sys2Proof
end

