-- ==== Sys2Proof/Machine/Operands.lean ====
section
/-! DEFINITION. Operands (spec/30_encoding.md R53), capturing header bytes (spec/40_engine.md R66), and reading the command
back from the buffer (spec/30_encoding.md R51, R56). -/

namespace Sys2Proof.Machine

/-- SETOFF's operand: `(zext_16(A) << 8) | zext_16(B)` (R53, R41). -/
def offsetOperand (a b : Byte) : Half := (a.setWidth 16 <<< 8) ||| b.setWidth 16

/-- The selector `(0x00, 0x00)` of opcode 0xFF (R53, R92). -/
def armSelector (a b : Byte) : Bool := a == 0x00 && b == 0x00

/-- The selector `(0x02, 0x01)` of opcode 0xFF (R53, R92). -/
def clearSelector (a b : Byte) : Bool := a == 0x02 && b == 0x01

/-- Step 1 (R66): at `p < 4` the input becomes `cmd[p]`; later input is not captured (R67). -/
def capture (input : Byte) (s : State) : State :=
  if s.engine.position < 4 then s.withCmd (s.engine.cmd.set s.engine.position input) else s

/-- `cmd[k]` as a rule reads it. A byte that holds no value is a free value (spec/93 item 9; log 7). -/
def headerByte (s : State) (k : Nat) : Byte := (s.engine.cmd.get k).getD (Config.draw (s.draws + k))

/-- The first `n` bytes of the buffer hold values. -/
def captured (s : State) (n : Nat) : Bool := (List.range n).all fun k => (s.engine.cmd.get k).isSome

/-- Having read the first `n` bytes of the buffer: where one of them held no value, its free value is used up (log 7). -/
def afterHeader (n : Nat) (s : State) : State := if captured s n then s else s.withDraws (s.draws + 4)

/-- The identification condition `cmd[0] = 0x00 and cmd[1] = 0x00` (R68). -/
def idSelected (s : State) : Bool := headerByte s 0 == 0x00 && headerByte s 1 == 0x00

/-- How many bytes of the buffer an exchange from position 3 on reads: an identification read leaves `cmd[2]` and `cmd[3]`
unread (R68). -/
def headerRead (s : State) : Nat := if idSelected s then 2 else 4

/-- The command in the buffer (R56). -/
def fetchCommand (s : State) : Instr :=
  decodeHeader (headerByte s 0) (headerByte s 1) (headerByte s 2) (headerByte s 3)

/-- A command buffer and a position at which the next exchange dispatches the command of these bytes (R72). -/
def placeHeader (o a b c : Byte) (s : State) : State :=
  (s.withCmd (CmdBuffer.ofHeader o a b c)).withPosition 4

end Sys2Proof.Machine
end

