-- ==== Sys2Proof/Machine/BackupStore.lean ====
section
/-! DEFINITION. The backup store commands (spec/41_commands.md R81 to R84). -/

namespace Sys2Proof.Machine

/-- SETOFF at position 4 (R81). -/
def setoffDispatch (a b : Byte) (s : State) : Result :=
  answer 0x01 (storeSeek (offsetOperand a b) (s.withOffset (offsetOperand a b)))

/-- SETOFF (R81, R97). -/
def execSetoff (a b c : Byte) (s : State) : Result :=
  runCommand 0x01 a b c (setoffDispatch a b) (continuationFault 0x01) s

/-- BKWR at position 4 (R82): write, flush, acknowledge. -/
def bkwrDispatch (a : Byte) (s : State) : Result :=
  andThen (storeWrite a s) fun t => answer 0x01 (storeFlush t)

/-- BKWR (R82, R97). -/
def execBkwr (a b c : Byte) (s : State) : Result :=
  runCommand 0x02 a b c (bkwrDispatch a) (continuationFault 0x02) s

/-- BKRD at positions above 4 (R84). -/
def bkrdContinuation (s : State) : Result := answer (storeRead s).1 (storeRead s).2

/-- BKRD: position 4 acknowledges and reads nothing (R83); each later position answers the next store byte (R84). -/
def execBkrd (a b c : Byte) (s : State) : Result :=
  runCommand 0x03 a b c (answer 0x01) bkrdContinuation s

end Sys2Proof.Machine
end

