-- ==== Sys2Proof/Machine/Identification.lean ====
section
/-! DEFINITION. IDREAD (spec/40_engine.md R68). -/

namespace Sys2Proof.Machine

/-- `ID_SEQ[(p - 2) mod 4]` (R68). -/
def idByte (p : Nat) : Byte :=
  match (p - 2) % 4 with
  | 0 => 0x06
  | 1 => 0x04
  | 2 => 0x10
  | _ => 0x00

/-- Step 2 (R68): the answer is the byte of the identification sequence; nothing else happens. -/
def answerId (s : State) : Result := answer (idByte s.engine.position) s

/-- IDREAD: 0xFF at positions 0 and 1 (R74), the identification sequence from position 2 on (R68). `cmd[2]` and `cmd[3]` are
not read. -/
def execIdread (_b _c : Byte) (s : State) : Result :=
  whileLive s (whileRoom s (if s.engine.position < 2 then answer 0xFF s else answerId s))

end Sys2Proof.Machine
end

