-- ==== Sys2Proof/Machine/Flags.lean ====
section
/-! DEFINITION. The device's only flag, `have_irq`, with its decay counter and status byte (spec/42_interrupt_latch.md R101). -/

namespace Sys2Proof.Machine

/-- `IRQ_DECAY_LIMIT` (spec/00_scope.md R6). -/
def irqDecayLimit : Nat := 4

/-- The arm of R93. -/
def Latch.arm (_l : Latch) : Latch := { haveIrq := true, irqTimer := 0, irqStatus := 0x02 }

/-- The status clear of R94. -/
def Latch.clearStatus (l : Latch) : Latch := { l with irqStatus := 0x00 }

/-- The flag clear of STATRD at position 6 (R87). -/
def Latch.clearIrq (l : Latch) : Latch := { l with haveIrq := false }

/-- The side effect of a poll (R98): while the flag is set the counter grows, and the flag clears once it exceeds the limit. -/
def Latch.polled (l : Latch) : Latch :=
  if l.haveIrq then
    { l with irqTimer := l.irqTimer + 1, haveIrq := decide (l.irqTimer + 1 ≤ irqDecayLimit) }
  else l

end Sys2Proof.Machine
end

