-- ==== Sys2Proof/Machine/Interrupt.lean ====
section
/-! DEFINITION. Interrupt control, opcode 0xFF (spec/41_commands.md R92 to R95). -/

namespace Sys2Proof.Machine

/-- The two tests of R92 on the latch; the conditions exclude each other. -/
def selectLatch (a b : Byte) (l : Latch) : Latch :=
  if armSelector a b then l.arm else if clearSelector a b then l.clearStatus else l

/-- Every opcode-0xFF command at position 4 (R92): the tests, then `Notify()` for every selector (D8), then 0x04. -/
def irqDispatch (a b : Byte) (s : State) : Result :=
  answer 0x04 (notify (s.withLatch (selectLatch a b s.latch)))

/-- IRQARM, header `FF 00 00 C` (R93, R97). -/
def execIrqarm (c : Byte) (s : State) : Result :=
  runCommand 0xFF 0x00 0x00 c (irqDispatch 0x00 0x00) (continuationFault 0xFF) s

/-- IRQCLR, header `FF 02 01 C` (R94, R97). -/
def execIrqclr (c : Byte) (s : State) : Result :=
  runCommand 0xFF 0x02 0x01 c (irqDispatch 0x02 0x01) (continuationFault 0xFF) s

/-- IRQCTL, header `FF A B C` with another selector (R95, R97). -/
def execIrqctl (a b c : Byte) (s : State) : Result :=
  runCommand 0xFF a b c (irqDispatch a b) (continuationFault 0xFF) s

end Sys2Proof.Machine
end

