-- ==== Sys2Proof/Machine/Logged.lean ====
section
/-! DEFINITION. The placeholder and logged commands (spec/41_commands.md R85 to R91). -/

namespace Sys2Proof.Machine

/-- CMD05 (R85, R97): no event. -/
def execCmd05 (a b c : Byte) (s : State) : Result :=
  runCommand 0x05 a b c (answer 0x04) (continuationFault 0x05) s

/-- STATRD at positions above 4 (R87): position 6 answers `irq_status` and clears `have_irq`; the others answer 0x00. -/
def statrdContinuation (s : State) : Result :=
  if s.engine.position = 6 then answer s.latch.irqStatus (s.withLatch s.latch.clearIrq) else answer 0x00 s

/-- STATRD (R86, R87). -/
def execStatrd (a b c : Byte) (s : State) : Result :=
  runCommand 0x82 a b c (logAndAnswer 0x82 a b) statrdContinuation s

/-- CMD83 (R88, R97). -/
def execCmd83 (a b c : Byte) (s : State) : Result :=
  runCommand 0x83 a b c (logAndAnswer 0x83 a b) (continuationFault 0x83) s

/-- CMD86 (R89, R90). -/
def execCmd86 (a b c : Byte) (s : State) : Result :=
  runCommand 0x86 a b c (logAndAnswer 0x86 a b) (answer 0x00) s

/-- CMD87 (R91, R97). -/
def execCmd87 (a b c : Byte) (s : State) : Result :=
  runCommand 0x87 a b c (logAndAnswer 0x87 a b) (continuationFault 0x87) s

end Sys2Proof.Machine
end

