-- ==== Sys2Proof/Machine/Unknown.lean ====
section
/-! DEFINITION. Unrecognised commands (spec/41_commands.md R96). -/

namespace Sys2Proof.Machine

/-- UNKNOWN at position 4 (R96): the non-fatal error is reported and 0x04 answered. -/
def unknownDispatch (o a b : Byte) (s : State) : Result := answer 0x04 (diag (.unknownOpcode o a b) s)

/-- UNKNOWN (R96, R97). -/
def execUnknown (o a b c : Byte) (s : State) : Result :=
  runCommand o a b c (unknownDispatch o a b) (continuationFault o) s

end Sys2Proof.Machine
end

