-- ==== Sys2Proof/Machine/Dispatch.lean ====
section
/-! DEFINITION. `exec i s`: one exchange of the command `i` at `s`'s position, after the input byte was captured
(spec/40_engine.md R65; log 4). -/

namespace Sys2Proof.Machine

def exec (i : Instr) (s : State) : Host.Outcome State Fault Refusal :=
  match i with
  | .idread b c => Sys2Proof.Machine.execIdread b c s
  | .setoff a b c => Sys2Proof.Machine.execSetoff a b c s
  | .bkwr a b c => Sys2Proof.Machine.execBkwr a b c s
  | .bkrd a b c => Sys2Proof.Machine.execBkrd a b c s
  | .cmd05 a b c => Sys2Proof.Machine.execCmd05 a b c s
  | .statrd a b c => Sys2Proof.Machine.execStatrd a b c s
  | .cmd83 a b c => Sys2Proof.Machine.execCmd83 a b c s
  | .cmd86 a b c => Sys2Proof.Machine.execCmd86 a b c s
  | .cmd87 a b c => Sys2Proof.Machine.execCmd87 a b c s
  | .irqarm c => Sys2Proof.Machine.execIrqarm c s
  | .irqclr c => Sys2Proof.Machine.execIrqclr c s
  | .irqctl a b c => Sys2Proof.Machine.execIrqctl a b c s
  | .unknown o a b c => Sys2Proof.Machine.execUnknown o a b c s

end Sys2Proof.Machine
end

