-- ==== Sys2Proof/Machine/Bus.lean ====
section
/-! DEFINITION. The operations from outside: the bus's three (spec/40_engine.md R62, R65; spec/42_interrupt_latch.md R98), the
snapshot facility's two (spec/43_snapshot.md R103, R104) and the lifecycle's two (spec/70_reset_and_hazards.md R123, R124). -/

namespace Sys2Proof.Machine

/-- `onChipSelect(asserted)` (R62, R63). -/
def chipSelect (asserted : Bool) (s : State) : Result :=
  whileLive s (.next (if asserted then s.withPosition 0 else s))

/-- Steps 2 to 7 of an exchange whose step 1 is done (R65): positions 0 and 1 are the gap; position 2 answers the
identification byte or is the gap; from position 3 on the header is whole and the command in it runs. -/
def exchangeBody (s : State) : Result :=
  if s.engine.position < 2 then answer 0xFF s
  else if s.engine.position = 2 then
    if idSelected s then answerId (afterHeader 2 s) else answer 0xFF (afterHeader 2 s)
  else exec (fetchCommand s) (afterHeader (headerRead s) s)

/-- `exchangeByte(input)` (R65). -/
def exchange (input : Byte) (s : State) : Result :=
  whileLive s (whileRoom s (exchangeBody (capture input s)))

/-- `pollInterrupt()` (R98): the value before the decay is returned. -/
def poll (s : State) : Result :=
  whileLive s (.next ((s.withLatch s.latch.polled).addReply (.irq s.latch.haveIrq)))

/-- The fields a snapshot holds with `SNAPSHOT_FULL` only (R103). -/
def snapshotExtra (s : State) : SnapshotExtra := ⟨s.backupOffset, s.latch.irqTimer, s.latch.irqStatus⟩

/-- The tuple of R103. -/
def snapshotOf (s : State) : Snapshot where
  position := s.engine.position
  haveIrq := s.latch.haveIrq
  cmd := s.engine.cmd
  extra := if s.params.snapshotFull then some (snapshotExtra s) else none

/-- `Save()` (R103). -/
def save (s : State) : Result := whileLive s (.next (s.addReply (.snapshot (snapshotOf s))))

/-- The part of `Restore` that every snapshot has (R104). -/
def restoreCore (t : Snapshot) (s : State) : State :=
  ((s.withPosition t.position).withCmd t.cmd).withLatch { s.latch with haveIrq := t.haveIrq }

/-- The further part of `Restore` with `SNAPSHOT_FULL` (R104). -/
def restoreExtra (e : SnapshotExtra) (s : State) : State :=
  (s.withOffset e.backupOffset).withLatch { s.latch with irqTimer := e.irqTimer, irqStatus := e.irqStatus }

/-- `Restore(t)` (R104). No check of the tuple's consistency is made (D22); with `SNAPSHOT_FULL` the tuple must hold the three
further fields (log 21). -/
def restore (t : Snapshot) (s : State) : Result :=
  whileLive s (
    if s.params.snapshotFull then
      match t.extra with
      | some e => .next (restoreExtra e (restoreCore t s))
      | none => .refused .snapshotShape
    else .next (restoreCore t s))

/-- The device's fields as construction leaves them (R32); whether there is a device, its store and the store file as given. -/
def freshDevice (present : Bool) (store : Store) (file : Option Blob) (s : State) : State :=
  { s with
    engine := Engine.initial, backupOffset := 0x0000, latch := Latch.initial, fault := none, events := []
    store := store, file := file, present := present }

/-- Teardown (R124): the store is flushed and closed and every device field is gone. A faulted device is not assumed to flush
(spec/91_not_in_source.md; log 23). -/
def teardown (s : State) : Result :=
  if s.present then
    .next (freshDevice false ⟨Blob.empty, none⟩ (if s.fault.isNone then (storeFlush s).file else s.file) s)
  else .refused .noDevice

/-- Construction (R123, R32): the store file is opened, created empty if absent; the cursor is 0 (D24). If `open` fails there
is no device (D13). -/
def construct (opens : Bool) (s : State) : Result :=
  if s.present then .refused .alreadyConstructed
  else if opens then
    .next (freshDevice true ⟨s.file.getD Blob.empty, some 0⟩ (some (s.file.getD Blob.empty)) s)
  else .next s

/-- One operation from outside. -/
def operate (op : Operation) (s : State) : Result :=
  match op with
  | .chipSelect asserted => chipSelect asserted s
  | .exchange input => exchange input s
  | .poll => poll s
  | .save => save s
  | .restore t => restore t s
  | .teardown => teardown s
  | .construct opens => construct opens s

/-- A step with nothing pending: the device never acts on its own (spec/00_scope.md R5); a faulted device is stuck (R109). -/
def idle (s : State) : Result :=
  match s.fault with
  | some f => .fault (.stuck f)
  | none => .next s

/-- The state in which the next step dispatches the command whose header bytes are given. -/
def placeCommand (bytes : List Byte) (s : State) : State :=
  match bytes with
  | o :: a :: b :: c :: _ => (placeHeader o a b c s).withPending (.exchange 0x00 :: s.pending)
  | _ => s

end Sys2Proof.Machine
end

