-- ==== Sys2Proof/Machine/Step.lean ====
section
/-! DEFINITION. One step: the oldest pending operation is performed (spec/00_scope.md R5, R10; log 1, log 2). -/

namespace Sys2Proof.Machine

/-- One operation is one step (R10, R135). With nothing pending the device waits. -/
def step (s : State) : Host.Outcome State Fault Refusal :=
  match s.pending with
  | [] => idle s
  | op :: rest => operate op (s.withPending rest)

/-- `s` with the command whose frame word is `w` in its command buffer, at the dispatch position, and one exchange pending
(R52, R72; log 2): the very next step dispatches that command. -/
def State.withFetchWord (s : State) (nbits w : Nat) : State :=
  placeCommand (frameBytes (BitVec.ofNat 32 (w % 2 ^ nbits))) s

end Sys2Proof.Machine
end

