-- ==== Sys2Proof/Safety.lean ====
section
/-! DEFINITION. The terms claims use: when an operation has a step, what a safe run is, the invariants of the machine,
transactions as lists of operations, relations between runs, and two reference computations. -/

namespace Sys2Proof.Machine

/-! ### When an operation has a step -/

/-- The device is constructed and has not faulted: its operations have a step (spec/60_exceptions.md R109). -/
def State.Live (s : State) : Prop := s.present = true ∧ s.fault = none

/-- An exchange has a step: live, and the position counter has room (R109, R76). -/
def State.Ready (s : State) : Prop := s.Live ∧ Params.full s.params s.engine.position = false

/-- `k` steps of the machine, stopping at the first fault or refusal: `Host.Core.run` of `Sys2Proof.core`. -/
def runs : Nat → State → Result
  | 0, s => .next s
  | k + 1, s => andThen (step s) (runs k)

/-- A run is safe when it completes and leaves no fault. -/
def RunSafe (k : Nat) (s : State) : Prop := ∃ t, runs k s = .next t ∧ t.fault = none

/-- `s` after an exchange that answered `b` and did nothing else (spec/40_engine.md R75). -/
def State.answered (s : State) (b : Byte) : State :=
  { s with engine := { s.engine with position := s.engine.position + 1 }, replies := s.replies ++ [.byte b] }

/-! ### Invariants -/

/-- The bytes the transaction has passed hold values (spec/10_state.md R18). -/
def headerHeld (position : Nat) (cmd : CmdBuffer) : Prop := ∀ k, k < 4 → k < position → (cmd.get k).isSome = true

/-- R18 of the machine, and of every snapshot still to be restored: Save on such a machine makes only such snapshots. -/
def State.HeaderHeld (s : State) : Prop :=
  headerHeld s.engine.position s.engine.cmd ∧ ∀ t, Operation.restore t ∈ s.pending → headerHeld t.position t.cmd

/-- Store contents are canonical, in the open store and in the store file. -/
def State.StoreCanonical (s : State) : Prop :=
  s.store.blob.wf = true ∧ ∀ b, s.file = some b → b.wf = true

/-- Every store write is durable (spec/20_memory.md R40). -/
def State.Durable (s : State) : Prop := s.present = true → s.file = some s.store.blob

/-- `irq_status` is 0x00 or 0x02, where restore cannot load it (spec/10_state.md R26). -/
def State.StatusLegal (s : State) : Prop :=
  s.params.snapshotFull = false ∧ (s.latch.irqStatus = 0x00 ∨ s.latch.irqStatus = 0x02)

/-- Without restore, `irq_timer` stays in 0..5, and below 5 while the flag is set (spec/10_state.md R24). -/
def State.TimerBounded (s : State) : Prop :=
  (∀ t, Operation.restore t ∉ s.pending) ∧ s.latch.irqTimer ≤ 5 ∧ (s.latch.haveIrq = true → s.latch.irqTimer ≤ 4)

/-- A recorded fault names an opcode that has no continuation, and the position the device stopped at
(spec/41_commands.md R97, spec/60_exceptions.md R108). -/
def State.FaultExplained (s : State) : Prop :=
  ∀ o p, s.fault = some (.continuationUndefined o p) →
    s.engine.position = p ∧ 5 ≤ p ∧ o ≠ 0x03 ∧ o ≠ 0x82 ∧ o ≠ 0x86

/-! ### Transactions -/

/-- Chip-select and the five exchanges of one command with its dispatch byte (spec/30_encoding.md R61). -/
def commandOps (o a b c d : Byte) : List Operation :=
  [.chipSelect true, .exchange o, .exchange a, .exchange b, .exchange c, .exchange d]

/-- The event of the position-3 check (spec/40_engine.md R69): one on a mismatch, none on a match. -/
def checkEvents (o a b c : Byte) : List Event :=
  if checksum o a b = c then [] else [.diag (.checksumMismatch c (checksum o a b))]

/-- The state in which the exchange at position 4 dispatches the command with this header, of a transaction that started
in `s`. -/
def atDispatch (o a b c : Byte) (s : State) : State :=
  { s with
    engine := ⟨4, CmdBuffer.ofHeader o a b c⟩
    events := s.events ++ checkEvents o a b c
    replies := s.replies ++ [.byte 0xFF, .byte 0xFF, .byte 0xFF, .byte 0xFF] }

/-! ### Relations between runs -/

/-- The same result with its next state changed. -/
def mapNext (f : State → State) (r : Result) : Result := andThen r fun s => .next (f s)

/-- `backup_offset` forgotten. -/
def State.forgetOffset (s : State) : State := s.withOffset 0x0000

/-- The bytes of `cmd` that the transaction has not reached, forgotten (spec/10_state.md R19). -/
def State.forgetStale (s : State) : State :=
  s.withCmd
    { b0 := if 0 < s.engine.position then s.engine.cmd.b0 else none
      b1 := if 1 < s.engine.position then s.engine.cmd.b1 else none
      b2 := if 2 < s.engine.position then s.engine.cmd.b2 else none
      b3 := if 3 < s.engine.position then s.engine.cmd.b3 else none }

/-- How many notifications an event list holds (spec/60_exceptions.md R116). -/
def notifications (l : List Event) : Nat := l.count .notify

/-! ### Reference computations -/

/-- One bit of a CRC-8 with polynomial 0x1B, most significant bit first (spec/40_engine.md R71). -/
def crcBit (r : Byte) : Byte := if r.msb then (r <<< 1) ^^^ 0x1B else r <<< 1

/-- One message byte: eight bits, no reflection. -/
def crcByte (r b : Byte) : Byte := Nat.repeat crcBit 8 (r ^^^ b)

/-- The CRC-8 of three bytes, initial value 0, no final XOR. -/
def crc8 (b0 b1 b2 : Byte) : Byte := crcByte (crcByte (crcByte 0x00 b0) b1) b2

/-- A poll on a decay counter of `w` bits that saturates (spec/10_state.md R24, `IRQ_TIMER_WIDTH` of R6). -/
def saturatingPoll (w : Nat) (l : Latch) : Latch :=
  if l.haveIrq then
    { l with irqTimer := min (l.irqTimer + 1) (2 ^ w - 1), haveIrq := decide (min (l.irqTimer + 1) (2 ^ w - 1) ≤ irqDecayLimit) }
  else l

end Sys2Proof.Machine
end

