-- ==== Sys2Proof/Certificates/Slice0/Obligations.lean ====
section
/-! DEFINITION. The statements for the provers. Each docstring names the rule of spec/ that the statement formalises, and the
decision of the spec and the log entry it rests on where there is one. -/

open Sys2Proof Sys2Proof.Machine

/-! ### Encoding -/

/-- R51, R55, R56: reading back the header of a well-formed command gives that command, and leaves the bytes after it. -/
def Obligations.DecodeOfEncodeIsTheCommand : Prop :=
  ∀ (i : Instr) (rest : List Byte), i.wf = true → decode (encode i ++ rest) = .ok (i, rest)

/-- R55 to R57: every four bytes are the header of one well-formed command, whose header they are. -/
def Obligations.EncodeOfDecodeIsTheHeader : Prop :=
  ∀ (o a b c : Byte) (rest : List Byte), ∃ i : Instr,
    decode (o :: a :: b :: c :: rest) = .ok (i, rest) ∧ encode i = [o, a, b, c] ∧ i.wf = true

/-- R52, R55 and spec/opcode_table.json: the command read from a header is that of the first table row whose mask and match fit
the frame word. -/
def Obligations.DecodeSelectsTheFirstMatchingRow : Prop :=
  ∀ o a b c : Byte, firstRow (frameWord o a b c) = some (decodeHeader o a b c).mnemonic

/-- R52, R55, R57: frame words written out from the encodings are read as the commands they stand for, and three bytes are
refused by name. -/
def Obligations.DecodesTheSpecsFrameWords : Prop :=
  decodeTableWord 32 0x00005546 = some (.idread 0x55 0x46) ∧
  decodeTableWord 32 0x01123412 = some (.setoff 0x12 0x34 0x12) ∧
  decodeTableWord 32 0x02AB00B8 = some (.bkwr 0xAB 0x00 0xB8) ∧
  decodeTableWord 32 0x82CDEF0F = some (.statrd 0xCD 0xEF 0x0F) ∧
  decodeTableWord 32 0xFF0000C4 = some (.irqarm 0xC4) ∧
  decodeTableWord 32 0xFF020163 = some (.irqclr 0x63) ∧
  decodeTableWord 32 0xFF020078 = some (.irqctl 0x02 0x00 0x78) ∧
  decodeTableWord 32 0x0001005E = some (.unknown 0x00 0x01 0x00 0x5E) ∧
  ∀ o a b : Byte, decode [o, a, b] = .error (.shortHeader 3)

/-! ### Reset and lifecycle -/

/-- R32 (the spec's decisions D2, D6, D24; log 5, log 6, log 9): every device field after construction, on any store file and
for any parameters; reset is the case of the default parameters and no file (log 8, log 14). -/
def Obligations.ConstructionLeavesTheResetValues : Prop :=
  (∀ (q : Params) (file : Option Blob), ∃ s, s = State.constructed q file ∧
    s.engine.position = 0 ∧ (∀ k, s.engine.cmd.get k = none) ∧ s.backupOffset = 0x0000 ∧ s.latch = ⟨false, 0, 0x00⟩ ∧
    s.fault = none ∧ s.events = [] ∧ s.store.cursor = some 0 ∧
    (file = none → s.store.blob.len = 0 ∧ ∀ a, s.store.blob.read a = none) ∧
    (∀ b, file = some b → s.store.blob = b) ∧ s.Live) ∧
  State.reset = State.constructed ⟨none, false⟩ none

/-- R123 (D2, D13, D24; log 23): construction of an absent device gives one in the state of R32 on what the store file holds,
or creates the file empty; where `open` fails nothing changes. -/
def Obligations.ConstructionOpensTheStoreFile : Prop :=
  ∀ s : State, s.present = false →
    operate (.construct true) s = .next
      { s with
        engine := ⟨0, ⟨none, none, none, none⟩⟩, backupOffset := 0x0000, latch := ⟨false, 0, 0x00⟩, fault := none
        store := ⟨s.file.getD ⟨[], 0⟩, some 0⟩, events := [], file := some (s.file.getD ⟨[], 0⟩), present := true } ∧
    operate (.construct false) s = .next s

/-- R124 with R123 and R109 (the spec's decisions D2, D6, D24; log 5, log 6, log 9, log 23): what the store holds at teardown is
what a device constructed later finds, and no other field of the device survives. A faulted device can be torn down too: no
fault is left, the store file stays as it was, and a device constructed later is live on what the file holds. -/
def Obligations.StoreContentsSurvivePowerOff : Prop :=
  (∀ s : State, s.Live → ∃ t u : State,
    operate .teardown s = .next t ∧ t.present = false ∧ t.file = some s.store.blob ∧
    operate (.construct true) t = .next u ∧ u.store = ⟨s.store.blob, some 0⟩ ∧ u.Live ∧
    u.engine = (State.constructed u.params none).engine ∧ u.latch = (State.constructed u.params none).latch ∧
    u.backupOffset = 0x0000 ∧ u.events = []) ∧
  (∀ (s : State) (r : FaultReason), s.present = true → s.fault = some r → ∃ t u : State,
    operate .teardown s = .next t ∧ t.present = false ∧ t.fault = none ∧ t.file = s.file ∧
    operate (.construct true) t = .next u ∧ u.store = ⟨s.file.getD ⟨[], 0⟩, some 0⟩ ∧ u.Live)

/-! ### Chip-select and the exchange -/

/-- R62, R63 (that a deasserted chip-select changes nothing is the spec's decision D4; log 17) and R109 (D6; log 5): an asserted
chip-select writes `position` and nothing else, one that is deasserted writes nothing, neither returns anything, and on a
faulted device neither has a step. -/
def Obligations.ChipSelectResetsOnlyPosition : Prop :=
  ∀ s : State, s.present = true →
    (s.fault = none →
      operate (.chipSelect true) s = .next { s with engine := { s.engine with position := 0 } } ∧
      operate (.chipSelect false) s = .next s) ∧
    (∀ r asserted, s.fault = some r → operate (.chipSelect asserted) s = .fault (.stuck r))

/-- R74 with R66 and R75: at positions 0 and 1, and at 2 outside an identification read, a step captures the byte sent and
answers 0xFF. -/
def Obligations.GapCapturesAndAnswersFF : Prop :=
  ∀ (s : State) (x o a : Byte) (rest : List Operation),
    s.Ready → s.pending = .exchange x :: rest →
    (s.engine.position < 2 ∨
      (s.engine.position = 2 ∧ s.engine.cmd.get 0 = some o ∧ s.engine.cmd.get 1 = some a ∧ ¬(o = 0x00 ∧ a = 0x00))) →
    step s = .next
      { s with
        engine := ⟨s.engine.position + 1, s.engine.cmd.set s.engine.position x⟩
        pending := rest
        replies := s.replies ++ [Reply.byte 0xFF] }

/-- R68 with R66 and R75: from position 2 on, with 0x00 in `cmd[0]` and `cmd[1]`, a step answers the byte of the
identification sequence, whatever is sent, and writes the byte sent (below position 4) and `position`. -/
def Obligations.IdentificationReadAtEveryPosition : Prop :=
  ∀ (s : State) (x : Byte) (rest : List Operation),
    s.Ready → s.pending = .exchange x :: rest → 2 ≤ s.engine.position →
    s.engine.cmd.get 0 = some 0x00 → s.engine.cmd.get 1 = some 0x00 →
    step s = .next
      { s with
        engine := ⟨s.engine.position + 1,
          if s.engine.position < 4 then s.engine.cmd.set s.engine.position x else s.engine.cmd⟩
        pending := rest
        replies := s.replies ++
          [Reply.byte (([0x06, 0x04, 0x10, 0x00] : List Byte).getD ((s.engine.position - 2) % 4) 0x00)] }

/-- R68: after chip-select, 0x00 and 0x00, every exchange answers the next byte of the identification sequence, whatever is
sent and however long the transaction is; nothing else but the command buffer changes. -/
def Obligations.IdentificationReadRepeatsForever : Prop :=
  ∀ (s : State) (inputs : List Byte) (rest : List Operation),
    s.Live → s.params.posWidth = none →
    s.pending = .chipSelect true :: .exchange 0x00 :: .exchange 0x00 :: (inputs.map Operation.exchange ++ rest) →
    ∃ cmd : CmdBuffer, runs (3 + inputs.length) s = .next
      { s with
        engine := ⟨2 + inputs.length, cmd⟩
        pending := rest
        replies := s.replies ++ [.byte 0xFF, .byte 0xFF] ++
          (List.range inputs.length).map fun k => .byte (([0x06, 0x04, 0x10, 0x00] : List Byte).getD (k % 4) 0x00) }

/-- R69 with R66 and R75: at position 3, with a header that is no identification read, a step captures the byte sent as the
checksum and answers 0xFF; a mismatch records one event, a match none, and nothing else changes. -/
def Obligations.PositionThreeOnlyChecksTheHeader : Prop :=
  ∀ (s : State) (o a b c : Byte) (rest : List Operation),
    s.Ready → s.engine.position = 3 → s.pending = .exchange c :: rest →
    s.engine.cmd.get 0 = some o → s.engine.cmd.get 1 = some a → s.engine.cmd.get 2 = some b → ¬(o = 0x00 ∧ a = 0x00) →
    step s = .next
      { s with
        engine := ⟨4, ⟨some o, some a, some b, some c⟩⟩
        events := s.events ++ (if checksum o a b = c then [] else [Event.diag (.checksumMismatch c (checksum o a b))])
        pending := rest
        replies := s.replies ++ [Reply.byte 0xFF] }

/-- R65, R56 (log 4): from position 3 on, a step with an exchange pending captures the byte at position 3 and runs the command
that the four buffered bytes are decoded to. -/
def Obligations.StepRunsTheDecodedCommand : Prop :=
  ∀ (s : State) (x o a b c : Byte) (rest : List Operation) (i : Instr),
    s.Ready → 3 ≤ s.engine.position → s.pending = .exchange x :: rest →
    (if s.engine.position = 3 then s.engine.cmd.set 3 x else s.engine.cmd) = ⟨some o, some a, some b, some c⟩ →
    decode [o, a, b, c] = .ok (i, []) →
    step s = exec i { s with engine := ⟨s.engine.position, ⟨some o, some a, some b, some c⟩⟩, pending := rest }

/-- R65, R66, R69, R72, R74, R127: from any live device, chip-select and the five exchanges of a header that is no
identification read run that header's command at position 4, once, after four answers of 0xFF and the header check. -/
def Obligations.TransactionDispatchesItsCommand : Prop :=
  ∀ (s : State) (o a b c d : Byte) (rest : List Operation),
    s.Live → s.params.posWidth = none → ¬(o = 0x00 ∧ a = 0x00) → s.pending = commandOps o a b c d ++ rest →
    runs 6 s = exec (decodeHeader o a b c) { atDispatch o a b c s with pending := rest }

/-- R67: from position 4 on, the byte sent changes nothing. -/
def Obligations.InputIsIgnoredFromPositionFour : Prop :=
  ∀ (s : State) (x y : Byte), 4 ≤ s.engine.position → operate (.exchange x) s = operate (.exchange y) s

/-- R75 and R108 (D23; log 5): an exchange that answers advances `position` by one and hands back one byte; one that faults
does neither. -/
def Obligations.ExchangeAdvancesOrFaults : Prop :=
  ∀ (s t : State) (x : Byte) (rest : List Operation),
    s.pending = .exchange x :: rest → step s = .next t →
    s.Live ∧ t.pending = rest ∧ t.present = true ∧
    ((t.fault = none ∧ t.engine.position = s.engine.position + 1 ∧ ∃ b, t.replies = s.replies ++ [.byte b]) ∨
     (t.fault ≠ none ∧ t.engine.position = s.engine.position ∧ t.replies = s.replies ∧ t.store = s.store ∧
       t.latch = s.latch ∧ t.events = s.events))

/-- R80, R127: an exchange before position 4 does nothing of a command: no dispatch, no store access, no change to the latch, no
notification, and no event but the one mismatch that position 3 may record of the byte it captures (R69). -/
def Obligations.HeaderAloneDoesNothing : Prop :=
  ∀ (s t : State) (x : Byte) (rest : List Operation),
    s.pending = .exchange x :: rest → s.engine.position < 4 → step s = .next t →
    t.backupOffset = s.backupOffset ∧ t.latch = s.latch ∧ t.fault = none ∧ t.store = s.store ∧ t.file = s.file ∧
    notifications t.events = notifications s.events ∧
    (t.events = s.events ∨
      (s.engine.position = 3 ∧ ∃ computed, t.events = s.events ++ [Event.diag (.checksumMismatch x computed)]))

/-! ### The checksum -/

/-- R70: the word starts as the three bytes above a zero byte; iteration i tests bit 31 - i and, where it is set, XORs the
polynomial register 0x8D800000 shifted right by i; after 24 iterations the low byte is the checksum. -/
def Obligations.ChecksumIsTheTwentyFourStepReduction : Prop :=
  ∀ b0 b1 b2 : Byte,
    checksum b0 b1 b2 =
      ((List.range 24).foldl (fun (w : BitVec 32) i => if w.getLsbD (31 - i) then w ^^^ (0x8D800000#32 >>> i) else w)
        (BitVec.ofNat 32 (b0.toNat * 2 ^ 24 + b1.toNat * 2 ^ 16 + b2.toNat * 2 ^ 8))).setWidth 8

/-- R71 item 3: the checksum is linear over XOR. -/
def Obligations.ChecksumIsLinear : Prop :=
  ∀ a0 a1 a2 b0 b1 b2 : Byte,
    checksum (a0 ^^^ b0) (a1 ^^^ b1) (a2 ^^^ b2) = checksum a0 a1 a2 ^^^ checksum b0 b1 b2

/-- R71 items 1 and 2: after the loop the upper 24 bits are zero and the low byte is the CRC-8 of the three bytes with
polynomial 0x1B, initial value 0, no reflection and no final XOR. -/
def Obligations.ChecksumIsTheCrcEight : Prop :=
  ∀ b0 b1 b2 : Byte, checksumFinal b0 b1 b2 = (crc8 b0 b1 b2).setWidth 32

/-! ### Commands: what each does, and its whole frame (every field not named is unchanged) -/

/-- R68: IDREAD at every position from 2 on. -/
def Obligations.IdreadAnswersTheSequence : Prop :=
  ∀ (b c : Byte) (s : State), s.Ready → 2 ≤ s.engine.position →
    exec (.idread b c) s =
      .next (s.answered (([0x06, 0x04, 0x10, 0x00] : List Byte).getD ((s.engine.position - 2) % 4) 0x00))

/-- R81 (a seek past the end of the store is the spec's decision D12; log 12): SETOFF at position 4 writes `backup_offset` and the
cursor with the offset whose high byte is A, wherever the store ends. -/
def Obligations.SetoffSeeksToTheOffset : Prop :=
  ∀ (a b c : Byte) (s : State), s.Ready → s.engine.position = 4 →
    exec (.setoff a b c) s = .next
      ({ s with
         backupOffset := BitVec.ofNat 16 (a.toNat * 256 + b.toNat)
         store := { s.store with cursor := some (a.toNat * 256 + b.toNat) } }.answered 0x01)

/-- R82 with R36, R39, R40 (D10, D11; log 10, log 11): BKWR at position 4 with the cursor at k writes A there, moves the cursor
on by one and makes the store durable. -/
def Obligations.BkwrWritesAtTheCursor : Prop :=
  ∀ (a b c : Byte) (s : State) (k : Nat), s.Ready → s.engine.position = 4 → s.store.cursor = some k →
    exec (.bkwr a b c) s = .next
      ({ s with store := ⟨s.store.blob.write k a, some (k + 1)⟩, file := some (s.store.blob.write k a) }.answered 0x01)

/-- R36 (D10, D11; log 10, log 11): the byte BKWR writes reads back, every other address reads as before (a gap stays
unspecified), and the blob grows just enough. -/
def Obligations.BkwrChangesOneByte : Prop :=
  ∀ (a b c : Byte) (s t : State) (k : Nat), s.engine.position = 4 → s.store.cursor = some k →
    exec (.bkwr a b c) s = .next t →
    t.store.blob.read k = some a ∧ (∀ x, x ≠ k → t.store.blob.read x = s.store.blob.read x) ∧
    t.store.blob.len = max s.store.blob.len (k + 1)

/-- R39, R110 (D9; log 13): BKWR at position 4 with an unspecified cursor is refused. -/
def Obligations.BkwrRefusedAtAnUnspecifiedCursor : Prop :=
  ∀ (a b c : Byte) (s : State), s.Ready → s.engine.position = 4 → s.store.cursor = none →
    exec (.bkwr a b c) s = .refused .writeAtUnspecifiedCursor

/-- R83: BKRD at position 4 acknowledges and reads nothing. -/
def Obligations.BkrdAcknowledges : Prop :=
  ∀ (a b c : Byte) (s : State), s.Ready → s.engine.position = 4 → exec (.bkrd a b c) s = .next (s.answered 0x01)

/-- R84 with R38 (that the cursor passes 0xFFFF is the spec's decision D11; log 11): BKRD above position 4 answers the store byte
at the cursor, if it is specified, and moves the cursor on. -/
def Obligations.BkrdReadsTheByteAtTheCursor : Prop :=
  ∀ (a b c v : Byte) (s : State) (k : Nat), s.Ready → 5 ≤ s.engine.position → s.store.cursor = some k →
    s.store.blob.read k = some v →
    exec (.bkrd a b c) s = .next ({ s with store := { s.store with cursor := some (k + 1) } }.answered v)

/-- R36, R38 (D9, D10, D11; log 10, log 11): where the store does not say the byte, BKRD answers a free value. In a gap the cursor
moves on, past 0xFFFF too, past the end it becomes unspecified, and an unspecified cursor stays so. -/
def Obligations.BkrdDrawsAnUnspecifiedByte : Prop :=
  ∀ (a b c : Byte) (s : State), s.Ready → 5 ≤ s.engine.position →
    (∀ k, s.store.cursor = some k → s.store.blob.read k = none →
      exec (.bkrd a b c) s = .next
        ({ s with
           store := { s.store with cursor := if k < s.store.blob.len then some (k + 1) else none }
           draws := s.draws + 1 }.answered (Config.draw s.draws))) ∧
    (s.store.cursor = none →
      exec (.bkrd a b c) s = .next ({ s with draws := s.draws + 1 }.answered (Config.draw s.draws)))

/-- R85: CMD05 at position 4 answers 0x04 and records no event. -/
def Obligations.CmdFiveOnlyAnswers : Prop :=
  ∀ (a b c : Byte) (s : State), s.Ready → s.engine.position = 4 → exec (.cmd05 a b c) s = .next (s.answered 0x04)

/-- R86: STATRD at position 4 answers 0x04 and logs; the latch is not touched. -/
def Obligations.StatrdLogsAtDispatch : Prop :=
  ∀ (a b c : Byte) (s : State), s.Ready → s.engine.position = 4 →
    exec (.statrd a b c) s =
      .next ({ s with events := s.events ++ [Event.diag (.commandLog 0x82 a b)] }.answered 0x04)

/-- R87 (that the clearing makes no notification is the spec's decision D8; log 19): STATRD above position 4 answers `irq_status`
and clears `have_irq` at position 6 only, and answers 0x00 elsewhere. -/
def Obligations.StatrdReadsTheStatusAtSix : Prop :=
  ∀ (a b c : Byte) (s : State), s.Ready → 5 ≤ s.engine.position →
    (s.engine.position = 6 →
      exec (.statrd a b c) s = .next ({ s with latch := { s.latch with haveIrq := false } }.answered s.latch.irqStatus)) ∧
    (s.engine.position ≠ 6 → exec (.statrd a b c) s = .next (s.answered 0x00))

/-- R88, R91: CMD83 and CMD87 at position 4 answer 0x04 and log. -/
def Obligations.LoggedCommandsOnlyLog : Prop :=
  ∀ (a b c : Byte) (s : State), s.Ready → s.engine.position = 4 →
    exec (.cmd83 a b c) s =
      .next ({ s with events := s.events ++ [Event.diag (.commandLog 0x83 a b)] }.answered 0x04) ∧
    exec (.cmd87 a b c) s =
      .next ({ s with events := s.events ++ [Event.diag (.commandLog 0x87 a b)] }.answered 0x04)

/-- R89: CMD86 at position 4 answers 0x04 and logs. -/
def Obligations.CmdEightySixLogsAtDispatch : Prop :=
  ∀ (a b c : Byte) (s : State), s.Ready → s.engine.position = 4 →
    exec (.cmd86 a b c) s =
      .next ({ s with events := s.events ++ [Event.diag (.commandLog 0x86 a b)] }.answered 0x04)

/-- R90: CMD86 above position 4 answers 0x00. -/
def Obligations.CmdEightySixContinuesWithZero : Prop :=
  ∀ (a b c : Byte) (s : State), s.Ready → 5 ≤ s.engine.position → exec (.cmd86 a b c) s = .next (s.answered 0x00)

/-- R93 with R92 (the notification is the spec's decision D8; log 19): IRQARM at position 4. -/
def Obligations.IrqarmArmsTheLatch : Prop :=
  ∀ (c : Byte) (s : State), s.Ready → s.engine.position = 4 →
    exec (.irqarm c) s = .next ({ s with latch := ⟨true, 0, 0x02⟩, events := s.events ++ [Event.notify] }.answered 0x04)

/-- R94 with R92 (D8; log 19): IRQCLR at position 4 clears the status and neither the flag nor the counter. -/
def Obligations.IrqclrClearsOnlyTheStatus : Prop :=
  ∀ (c : Byte) (s : State), s.Ready → s.engine.position = 4 →
    exec (.irqclr c) s = .next
      ({ s with latch := { s.latch with irqStatus := 0x00 }, events := s.events ++ [Event.notify] }.answered 0x04)

/-- R95 with R92 (D8; log 19): IRQCTL at position 4 with a selector that names neither branch only notifies. -/
def Obligations.IrqctlOnlyNotifies : Prop :=
  ∀ (a b c : Byte) (s : State), s.Ready → s.engine.position = 4 → ¬(a = 0x00 ∧ b = 0x00) → ¬(a = 0x02 ∧ b = 0x01) →
    exec (.irqctl a b c) s = .next ({ s with events := s.events ++ [Event.notify] }.answered 0x04)

/-- R96, R57: an unrecognised command at position 4 is reported and answered with 0x04. -/
def Obligations.UnknownOnlyReports : Prop :=
  ∀ (o a b c : Byte) (s : State), s.Ready → s.engine.position = 4 →
    exec (.unknown o a b c) s =
      .next ({ s with events := s.events ++ [Event.diag (.unknownOpcode o a b)] }.answered 0x04)

/-- R97, R108 (D6, D23; log 5): above position 4 every command but IDREAD, BKRD, STATRD and CMD86 raises the continuation fault,
which changes `fault` and nothing else. -/
def Obligations.ContinuationFaultsWithoutAContinuation : Prop :=
  ∀ (i : Instr) (o a b c : Byte) (s : State),
    i.wf = true → encode i = [o, a, b, c] → ¬(o = 0x00 ∧ a = 0x00) → o ≠ 0x03 → o ≠ 0x82 → o ≠ 0x86 →
    s.Ready → 5 ≤ s.engine.position →
    exec i s = .next { s with fault := some (.continuationUndefined o s.engine.position) }

/-! ### Faults and refusals -/

/-- R109 (D6; log 5) with R123 (log 23): once the device has faulted, no operation has a step but teardown; construction of a
constructed device, faulted or not, is refused. -/
def Obligations.FaultedDeviceIsStuck : Prop :=
  (∀ (s : State) (r : FaultReason), s.present = true → s.fault = some r → s.pending.head? ≠ some .teardown →
    (∀ opens, s.pending.head? ≠ some (.construct opens)) → step s = .fault (.stuck r)) ∧
  (∀ (s : State) (opens : Bool) (rest : List Operation), s.present = true → s.pending = .construct opens :: rest →
    step s = .refused .alreadyConstructed)

/-- R76, R110 (D1; log 15) and R124 (log 23): an exchange at a position whose successor does not fit a finite counter is refused,
and so is every operation but construction where no device is constructed. -/
def Obligations.RefusedWithoutRoomOrDevice : Prop :=
  (∀ (s : State) (x : Byte) (w : Nat), s.Live → s.params.posWidth = some w → 2 ^ w ≤ s.engine.position + 1 →
    operate (.exchange x) s = .refused .positionOverflow) ∧
  (∀ (s : State) (op : Operation), s.present = false → (∀ opens, op ≠ .construct opens) →
    operate op s = .refused .noDevice)

/-! ### The interrupt latch -/

/-- R98 (that decay makes no notification is the spec's decision D8; log 19) and R109 (D6; log 5): a poll returns the flag as it
was; while it is set the counter grows by one and the flag clears once it exceeds 4; a faulted device has no step. -/
def Obligations.PollReportsThenDecays : Prop :=
  ∀ s : State, s.present = true →
    (s.fault = none →
      (s.latch.haveIrq = true →
        operate .poll s = .next
          { s with
            latch := ⟨decide (¬ s.latch.irqTimer + 1 > 4), s.latch.irqTimer + 1, s.latch.irqStatus⟩
            replies := s.replies ++ [.irq true] }) ∧
      (s.latch.haveIrq = false → operate .poll s = .next { s with replies := s.replies ++ [.irq false] })) ∧
    (∀ r, s.fault = some r → operate .poll s = .fault (.stuck r))

/-- R99 (that decay makes no notification is the spec's decision D8; log 19): n polls of a freshly armed latch return true for the
first five and false from then on. -/
def Obligations.LatchDecaysAfterFivePolls : Prop :=
  ∀ (s : State) (n : Nat) (rest : List Operation),
    s.Live → s.latch.haveIrq = true → s.latch.irqTimer = 0 → s.pending = List.replicate n .poll ++ rest →
    runs n s = .next
      { s with
        latch := ⟨decide (n < 5), min n 5, s.latch.irqStatus⟩
        pending := rest
        replies := s.replies ++ (List.range n).map fun k => .irq (decide (k < 5)) }

/-- R24, D3: a decay counter of 3 or more bits that saturates cannot be told from the unbounded one. -/
def Obligations.SaturatingCounterIsEquivalent : Prop :=
  ∀ (l : Latch) (w : Nat), 3 ≤ w →
    saturatingPoll w { l with irqTimer := min l.irqTimer (2 ^ w - 1) } =
      { l.polled with irqTimer := min l.polled.irqTimer (2 ^ w - 1) }

/-- R101: no command changes the latch but IRQARM and IRQCLR at position 4 and STATRD at position 6; IRQCTL is taken
well-formed, as the decoder makes it. -/
def Obligations.OnlyLatchCommandsChangeTheLatch : Prop :=
  ∀ (i : Instr) (s t : State), i.wf = true → exec i s = .next t →
    t.latch = s.latch ∨
    (s.engine.position = 4 ∧ (∃ c, i = .irqarm c) ∧ t.latch = ⟨true, 0, 0x02⟩) ∨
    (s.engine.position = 4 ∧ (∃ c, i = .irqclr c) ∧ t.latch = { s.latch with irqStatus := 0x00 }) ∨
    (s.engine.position = 6 ∧ (∃ a b c, i = .statrd a b c) ∧ t.latch = { s.latch with haveIrq := false })

/-- R116, R92 (D8; log 19): a command makes one notification exactly when it is an opcode-0xFF command at position 4, and none
otherwise. -/
def Obligations.OnlyIrqCommandsNotify : Prop :=
  ∀ (i : Instr) (s t : State), exec i s = .next t →
    notifications t.events = notifications s.events +
      (if s.engine.position = 4 ∧ (encode i).head? = some 0xFF ∧ (∀ o a b c, i ≠ .unknown o a b c) then 1 else 0)

/-! ### Snapshot and restore -/

/-- R103 (the order of the further fields is the spec's decision D14): Save hands back the tuple and changes nothing. -/
def Obligations.SaveReturnsTheTuple : Prop :=
  ∀ s : State, s.Live →
    operate .save s = .next
      { s with replies := s.replies ++ [.snapshot
        ⟨s.engine.position, s.latch.haveIrq, s.engine.cmd,
          if s.params.snapshotFull then some ⟨s.backupOffset, s.latch.irqTimer, s.latch.irqStatus⟩ else none⟩] }

/-- R104 (D14, D22; log 21): Restore writes the fields of its variant and no other. -/
def Obligations.RestoreWritesOnlyItsFields : Prop :=
  ∀ (s : State) (t : Snapshot), s.Live →
    (s.params.snapshotFull = false →
      operate (.restore t) s = .next
        { s with engine := ⟨t.position, t.cmd⟩, latch := { s.latch with haveIrq := t.haveIrq } }) ∧
    (∀ e, s.params.snapshotFull = true → t.extra = some e →
      operate (.restore t) s = .next
        { s with
          engine := ⟨t.position, t.cmd⟩
          backupOffset := e.backupOffset
          latch := ⟨t.haveIrq, e.irqTimer, e.irqStatus⟩ })

/-! ### Invariants that every step keeps -/

/-- R34, R36 (a gap is unlisted: D10; log 10): every step keeps the store and the store file (log 24) in canonical form. -/
def Obligations.StepKeepsTheStoreCanonical : Prop :=
  ∀ s t : State, s.StoreCanonical → step s = .next t → t.StoreCanonical

/-- R18 (construction values: D2; log 6): every step keeps "cmd[i] holds a value once position > i", where the snapshots still to
be restored have it. -/
def Obligations.StepKeepsTheHeaderHeld : Prop :=
  ∀ s t : State, s.HeaderHeld → step s = .next t → t.HeaderHeld

/-- R40 (the store file is a field: log 24): every step keeps the store file equal to the store while the device is constructed: no
write is buffered. -/
def Obligations.StepKeepsTheStoreDurable : Prop :=
  ∀ s t : State, s.Durable → step s = .next t → t.Durable

/-- R26 (construction value: D2; log 6): with `SNAPSHOT_FULL = false`, every step keeps `irq_status` 0x00 or 0x02. -/
def Obligations.StepKeepsTheStatusLegal : Prop :=
  ∀ s t : State, s.StatusLegal → step s = .next t → t.StatusLegal

/-- R24 (construction values: D2; log 6): without restore, every step keeps `irq_timer` in 0..5, and in 0..4 while the flag is
set. -/
def Obligations.StepKeepsTheTimerBounded : Prop :=
  ∀ s t : State, s.TimerBounded → step s = .next t → t.TimerBounded

/-- R97, R108 (D6; log 5): every step keeps "a recorded fault names an opcode with no continuation and the position the device
stopped at". -/
def Obligations.StepKeepsTheFaultExplained : Prop :=
  ∀ s t : State, s.FaultExplained → step s = .next t → t.FaultExplained

/-- R32 (D2, D6, D24): reset meets every invariant above. -/
def Obligations.ResetMeetsTheInvariants : Prop :=
  State.reset.StoreCanonical ∧ State.reset.HeaderHeld ∧ State.reset.Durable ∧ State.reset.StatusLegal ∧
  State.reset.TimerBounded ∧ State.reset.FaultExplained ∧ State.reset.Ready

/-- R6, R105 (log 14): no step changes the parameters. -/
def Obligations.StepKeepsTheParameters : Prop :=
  ∀ s t : State, step s = .next t → t.params = s.params

/-! ### Whole-machine rules -/

/-- R20 (construction and teardown: D2; log 6, log 23): with `SNAPSHOT_FULL = false`, a step changes `backup_offset` only where it
dispatches SETOFF, constructs the device or tears it down. -/
def Obligations.OnlySetoffWritesTheOffset : Prop :=
  ∀ s t : State, s.params.snapshotFull = false → step s = .next t → t.backupOffset ≠ s.backupOffset →
    (∃ x rest, s.pending = .exchange x :: rest ∧ s.engine.position = 4 ∧
      headerByte s 0 = 0x01 ∧ t.backupOffset = BitVec.ofNat 16 ((headerByte s 1).toNat * 256 + (headerByte s 2).toNat)) ∨
    (s.pending.head? = some .teardown ∧ t.present = false) ∨
    (s.pending.head? = some (.construct true) ∧ s.present = false)

/-- R21: with `SNAPSHOT_FULL = false`, `backup_offset` influences no step: not its outcome, its replies, its events, the store
or any other field. -/
def Obligations.OffsetInfluencesNothing : Prop :=
  ∀ (s : State) (v : Half), s.params.snapshotFull = false →
    mapNext State.forgetOffset (step (s.withOffset v)) = mapNext State.forgetOffset (step s)

/-- R18, R19: the bytes an earlier transaction left in `cmd` influence no step but Save. -/
def Obligations.StaleBytesInfluenceNothing : Prop :=
  ∀ s : State, s.pending.head? ≠ some .save →
    mapNext State.forgetStale (step s.forgetStale) = mapNext State.forgetStale (step s)

/-- R129, R35 (a seek past the end, a write past the end and a cursor that passes 0xFFFF are the spec's decisions D12, D10 and D11;
log 12, log 10, log 11): from any live device, SETOFF to an offset, BKWR of a byte, SETOFF to the offset again and BKRD with one
continuation answer that byte last, whatever the checksum, unused and dispatch bytes are; the store file holds it too. -/
def Obligations.StoreRoundTripReturnsTheByte : Prop :=
  ∀ (s : State) (a b v x y z c1 c2 c3 c4 d1 d2 d3 d4 d5 : Byte) (rest : List Operation),
    s.Live → s.params.posWidth = none →
    s.pending = commandOps 0x01 a b c1 d1 ++ commandOps 0x02 v x c2 d2 ++ commandOps 0x01 a b c3 d3 ++
      commandOps 0x03 y z c4 d4 ++ .exchange d5 :: rest →
    ∃ (t : State) (m : Blob), runs 25 s = .next t ∧ t.fault = none ∧ t.pending = rest ∧
      t.replies.getLast? = some (.byte v) ∧ t.store.cursor = some (a.toNat * 256 + b.toNat + 1) ∧
      t.file = some m ∧ m.read (a.toNat * 256 + b.toNat) = some v
end

