-- ==== Sys2Proof/Laws/Decode.lean ====
section
/-! SUPPORT. The case split of the decoder, said once (spec/30_encoding.md R56, R57). -/

namespace Sys2Proof

/-- The case split of R56, once: a property of the command read from `o a b c` is shown for each row under that row's
condition. -/
theorem decodeHeader_elim {P : Instr → Prop} {o a b c : Byte}
    (idread : o = 0x00 → a = 0x00 → P (.idread b c))
    (setoff : o = 0x01 → P (.setoff a b c))
    (bkwr : o = 0x02 → P (.bkwr a b c))
    (bkrd : o = 0x03 → P (.bkrd a b c))
    (cmd05 : o = 0x05 → P (.cmd05 a b c))
    (statrd : o = 0x82 → P (.statrd a b c))
    (cmd83 : o = 0x83 → P (.cmd83 a b c))
    (cmd86 : o = 0x86 → P (.cmd86 a b c))
    (cmd87 : o = 0x87 → P (.cmd87 a b c))
    (irqarm : o = 0xFF → a = 0x00 → b = 0x00 → P (.irqarm c))
    (irqclr : o = 0xFF → a = 0x02 → b = 0x01 → P (.irqclr c))
    (irqctl : o = 0xFF → namedSelector a b = false → P (.irqctl a b c))
    (unknown : recognised o a = false → P (.unknown o a b c)) : P (decodeHeader o a b c) := by
  unfold decodeHeader
  by_cases h0 : o = 0x00 ∧ a = 0x00
  · rw [if_pos h0]; exact idread h0.1 h0.2
  rw [if_neg h0]
  by_cases h1 : o = 0x01
  · rw [if_pos h1]; exact setoff h1
  rw [if_neg h1]
  by_cases h2 : o = 0x02
  · rw [if_pos h2]; exact bkwr h2
  rw [if_neg h2]
  by_cases h3 : o = 0x03
  · rw [if_pos h3]; exact bkrd h3
  rw [if_neg h3]
  by_cases h5 : o = 0x05
  · rw [if_pos h5]; exact cmd05 h5
  rw [if_neg h5]
  by_cases h82 : o = 0x82
  · rw [if_pos h82]; exact statrd h82
  rw [if_neg h82]
  by_cases h83 : o = 0x83
  · rw [if_pos h83]; exact cmd83 h83
  rw [if_neg h83]
  by_cases h86 : o = 0x86
  · rw [if_pos h86]; exact cmd86 h86
  rw [if_neg h86]
  by_cases h87 : o = 0x87
  · rw [if_pos h87]; exact cmd87 h87
  rw [if_neg h87]
  by_cases hff : o = 0xFF
  · rw [if_pos hff]
    by_cases ha : a = 0x00 ∧ b = 0x00
    · rw [if_pos ha]; exact irqarm hff ha.1 ha.2
    rw [if_neg ha]
    by_cases hc : a = 0x02 ∧ b = 0x01
    · rw [if_pos hc]; exact irqclr hff hc.1 hc.2
    rw [if_neg hc]
    refine irqctl hff ?_
    simp only [namedSelector, Bool.or_eq_false_iff, Bool.and_eq_false_iff, beq_eq_false_iff_ne]
    exact ⟨not_and_or.1 ha, not_and_or.1 hc⟩
  rw [if_neg hff]
  refine unknown ?_
  simp only [recognised, Bool.or_eq_false_iff, Bool.and_eq_false_iff, beq_eq_false_iff_ne]
  exact ⟨⟨⟨⟨⟨⟨⟨⟨⟨not_and_or.1 h0, h1⟩, h2⟩, h3⟩, h5⟩, h82⟩, h83⟩, h86⟩, h87⟩, hff⟩

/-- What it takes for a header to be unrecognised (R57). -/
theorem not_recognised {o a : Byte} (h : recognised o a = false) :
    (o ≠ 0x00 ∨ a ≠ 0x00) ∧ o ≠ 0x01 ∧ o ≠ 0x02 ∧ o ≠ 0x03 ∧ o ≠ 0x05 ∧ o ≠ 0x82 ∧ o ≠ 0x83 ∧ o ≠ 0x86 ∧ o ≠ 0x87 ∧
      o ≠ 0xFF := by
  simp only [recognised, Bool.or_eq_false_iff, Bool.and_eq_false_iff, beq_eq_false_iff_ne] at h
  tauto

/-- The header of the command read from four bytes is those bytes (R55, R56). -/
theorem encode_decodeHeader (o a b c : Byte) : encode (decodeHeader o a b c) = [o, a, b, c] := by
  apply decodeHeader_elim (P := fun i => encode i = [o, a, b, c]) <;> intros <;> simp_all [encode]

end Sys2Proof
end

