-- ==== Sys2Proof/Laws/Memory.lean ====
section
/-! SUPPORT. Store memory (spec/20_memory.md R36): a read after a write, and every operation keeps the canonical form. -/

namespace Sys2Proof.Machine

theorem Memory.get_put_same (m : Memory) (a : Nat) (v : Byte) : Memory.get (Memory.put m a v) a = some v := by
  induction m with
  | nil => simp [Memory.put, Memory.get]
  | cons cell rest ih =>
    obtain ⟨k, w⟩ := cell
    by_cases h1 : a < k
    · simp [Memory.put, Memory.get, h1]
    · by_cases h2 : a = k
      · simp [Memory.put, Memory.get, h2]
      · simp [Memory.put, Memory.get, h1, h2, Ne.symm h2, ih]

theorem Memory.get_put_other (m : Memory) {a x : Nat} (v : Byte) (h : x ≠ a) :
    Memory.get (Memory.put m a v) x = Memory.get m x := by
  induction m with
  | nil => simp [Memory.put, Memory.get, h.symm]
  | cons cell rest ih =>
    obtain ⟨k, w⟩ := cell
    by_cases h1 : a < k
    · simp [Memory.put, Memory.get, h1, h.symm]
    · by_cases h2 : a = k
      · subst h2; simp [Memory.put, Memory.get, h.symm]
      · simp [Memory.put, Memory.get, h1, h2, ih]

theorem Memory.get_dropRange (m : Memory) (lo hi x : Nat) :
    Memory.get (Memory.dropRange m lo hi) x = if lo ≤ x ∧ x < hi then none else Memory.get m x := by
  induction m with
  | nil => simp [Memory.dropRange, Memory.get]
  | cons cell rest ih =>
    obtain ⟨k, w⟩ := cell
    simp only [Memory.dropRange] at ih ⊢
    by_cases hk : lo ≤ k ∧ k < hi
    · have : (!(decide (lo ≤ k) && decide (k < hi))) = false := by simp [hk]
      simp only [List.filter_cons, this, Bool.false_eq_true, if_false, Memory.get, ih]
      by_cases hx : k = x
      · subst hx; simp [hk]
      · simp [hx]
    · have : (!(decide (lo ≤ k) && decide (k < hi))) = true := by
        simp only [Bool.not_eq_true', Bool.and_eq_false_iff, decide_eq_false_iff_not]; omega
      simp only [List.filter_cons, this, if_true, Memory.get, ih]
      by_cases hx : k = x
      · subst hx; simp [hk]
      · simp [hx]

theorem Memory.mem_put {m : Memory} {a : Nat} {v : Byte} {cell : Host.Cell} (h : cell ∈ Memory.put m a v) :
    cell = (a, v) ∨ cell ∈ m := by
  induction m with
  | nil => simpa [Memory.put] using h
  | cons head rest ih =>
    obtain ⟨k, w⟩ := head
    simp only [Memory.put] at h
    split at h
    · simpa using h
    · split at h
      · rcases List.mem_cons.1 h with h | h
        · exact .inl h
        · exact .inr (List.mem_cons_of_mem _ h)
      · rcases List.mem_cons.1 h with h | h
        · exact .inr (by simp [h])
        · exact (ih h).imp_right (List.mem_cons_of_mem _)

theorem Memory.put_wf {m : Memory} (a : Nat) (v : Byte) (h : Memory.wf m = true) : Memory.wf (Memory.put m a v) = true := by
  induction m with
  | nil => simp [Memory.put, Memory.wf]
  | cons head rest ih =>
    obtain ⟨k, w⟩ := head
    simp only [Memory.wf, Bool.and_eq_true, List.all_eq_true, decide_eq_true_eq] at h
    simp only [Memory.put]
    split
    · rename_i hak
      simp only [Memory.wf, Bool.and_eq_true, List.all_eq_true, decide_eq_true_eq]
      refine ⟨fun cell hc => ?_, h⟩
      rcases List.mem_cons.1 hc with hc | hc
      · simpa [hc] using hak
      · exact hak.trans (h.1 cell hc)
    · split
      · rename_i _ hak; subst hak
        simpa only [Memory.wf, Bool.and_eq_true, List.all_eq_true, decide_eq_true_eq] using h
      · rename_i h1 h2
        simp only [Memory.wf, Bool.and_eq_true, List.all_eq_true, decide_eq_true_eq]
        refine ⟨fun cell hc => ?_, ih h.2⟩
        rcases Memory.mem_put hc with hc | hc
        · simp only [hc]; omega
        · exact h.1 cell hc

theorem Memory.filter_wf {m : Memory} (p : Host.Cell → Bool) (h : Memory.wf m = true) : Memory.wf (m.filter p) = true := by
  induction m with
  | nil => rfl
  | cons head rest ih =>
    obtain ⟨k, w⟩ := head
    simp only [Memory.wf, Bool.and_eq_true, List.all_eq_true, decide_eq_true_eq] at h
    simp only [List.filter_cons]
    split
    · simp only [Memory.wf, Bool.and_eq_true, List.all_eq_true, decide_eq_true_eq]
      exact ⟨fun cell hc => h.1 cell (List.mem_of_mem_filter hc), ih h.2⟩
    · exact ih h.2

theorem Memory.dropRange_wf {m : Memory} (lo hi : Nat) (h : Memory.wf m = true) :
    Memory.wf (Memory.dropRange m lo hi) = true :=
  Memory.filter_wf _ h

theorem Blob.write_wf {b : Blob} (a : Nat) (v : Byte) (h : b.wf = true) : (b.write a v).wf = true := by
  simp only [Blob.wf, Blob.write, Bool.and_eq_true, List.all_eq_true, decide_eq_true_eq] at h ⊢
  refine ⟨Memory.put_wf a v (Memory.dropRange_wf _ _ h.1), fun cell hc => ?_⟩
  rcases Memory.mem_put hc with hc | hc
  · subst hc; exact decide_eq_true (lt_max_of_lt_right (Nat.lt_succ_self a))
  · exact decide_eq_true (lt_max_of_lt_left (h.2 cell (List.mem_of_mem_filter hc)))

theorem Blob.empty_wf : Blob.empty.wf = true := rfl

theorem Blob.read_write_same (b : Blob) (a : Nat) (v : Byte) : (b.write a v).read a = some v := by
  simp only [Blob.read, Blob.write, Memory.get_put_same]
  exact if_pos (by omega)

theorem Blob.read_write_other (b : Blob) {a x : Nat} (v : Byte) (h : x ≠ a) : (b.write a v).read x = b.read x := by
  simp only [Blob.read, Blob.write, Memory.get_put_other _ v h, Memory.get_dropRange]
  by_cases h1 : x < b.len
  · simp [h1]
  · by_cases h2 : x < a
    · rw [if_neg h1]; split <;> simp [Nat.not_lt.1 h1, h2]
    · rw [if_neg h1, if_neg (by omega)]

end Sys2Proof.Machine
end

