-- ==== Sys2Proof/Laws/State.lean ====
section
/-! SUPPORT. What each field is after each update of Machine/Ops.lean, and after the fields are put in place for a dispatch. -/

namespace Sys2Proof.Machine

variable (s : State)

@[simp] theorem State.withPosition_engine (p : Nat) : (s.withPosition p).engine = { s.engine with position := p } := rfl
@[simp] theorem State.withPosition_backupOffset (p : Nat) : (s.withPosition p).backupOffset = s.backupOffset := rfl
@[simp] theorem State.withPosition_latch (p : Nat) : (s.withPosition p).latch = s.latch := rfl
@[simp] theorem State.withPosition_fault (p : Nat) : (s.withPosition p).fault = s.fault := rfl
@[simp] theorem State.withPosition_store (p : Nat) : (s.withPosition p).store = s.store := rfl
@[simp] theorem State.withPosition_events (p : Nat) : (s.withPosition p).events = s.events := rfl
@[simp] theorem State.withPosition_file (p : Nat) : (s.withPosition p).file = s.file := rfl
@[simp] theorem State.withPosition_present (p : Nat) : (s.withPosition p).present = s.present := rfl
@[simp] theorem State.withPosition_params (p : Nat) : (s.withPosition p).params = s.params := rfl
@[simp] theorem State.withPosition_pending (p : Nat) : (s.withPosition p).pending = s.pending := rfl
@[simp] theorem State.withPosition_replies (p : Nat) : (s.withPosition p).replies = s.replies := rfl
@[simp] theorem State.withPosition_draws (p : Nat) : (s.withPosition p).draws = s.draws := rfl

@[simp] theorem State.withCmd_engine (b : CmdBuffer) : (s.withCmd b).engine = { s.engine with cmd := b } := rfl
@[simp] theorem State.withCmd_backupOffset (b : CmdBuffer) : (s.withCmd b).backupOffset = s.backupOffset := rfl
@[simp] theorem State.withCmd_latch (b : CmdBuffer) : (s.withCmd b).latch = s.latch := rfl
@[simp] theorem State.withCmd_fault (b : CmdBuffer) : (s.withCmd b).fault = s.fault := rfl
@[simp] theorem State.withCmd_store (b : CmdBuffer) : (s.withCmd b).store = s.store := rfl
@[simp] theorem State.withCmd_events (b : CmdBuffer) : (s.withCmd b).events = s.events := rfl
@[simp] theorem State.withCmd_file (b : CmdBuffer) : (s.withCmd b).file = s.file := rfl
@[simp] theorem State.withCmd_present (b : CmdBuffer) : (s.withCmd b).present = s.present := rfl
@[simp] theorem State.withCmd_params (b : CmdBuffer) : (s.withCmd b).params = s.params := rfl
@[simp] theorem State.withCmd_pending (b : CmdBuffer) : (s.withCmd b).pending = s.pending := rfl
@[simp] theorem State.withCmd_replies (b : CmdBuffer) : (s.withCmd b).replies = s.replies := rfl
@[simp] theorem State.withCmd_draws (b : CmdBuffer) : (s.withCmd b).draws = s.draws := rfl

@[simp] theorem State.withOffset_engine (o : Half) : (s.withOffset o).engine = s.engine := rfl
@[simp] theorem State.withOffset_backupOffset (o : Half) : (s.withOffset o).backupOffset = o := rfl
@[simp] theorem State.withOffset_latch (o : Half) : (s.withOffset o).latch = s.latch := rfl
@[simp] theorem State.withOffset_fault (o : Half) : (s.withOffset o).fault = s.fault := rfl
@[simp] theorem State.withOffset_store (o : Half) : (s.withOffset o).store = s.store := rfl
@[simp] theorem State.withOffset_events (o : Half) : (s.withOffset o).events = s.events := rfl
@[simp] theorem State.withOffset_file (o : Half) : (s.withOffset o).file = s.file := rfl
@[simp] theorem State.withOffset_present (o : Half) : (s.withOffset o).present = s.present := rfl
@[simp] theorem State.withOffset_params (o : Half) : (s.withOffset o).params = s.params := rfl
@[simp] theorem State.withOffset_pending (o : Half) : (s.withOffset o).pending = s.pending := rfl
@[simp] theorem State.withOffset_replies (o : Half) : (s.withOffset o).replies = s.replies := rfl
@[simp] theorem State.withOffset_draws (o : Half) : (s.withOffset o).draws = s.draws := rfl

@[simp] theorem State.withLatch_engine (l : Latch) : (s.withLatch l).engine = s.engine := rfl
@[simp] theorem State.withLatch_backupOffset (l : Latch) : (s.withLatch l).backupOffset = s.backupOffset := rfl
@[simp] theorem State.withLatch_latch (l : Latch) : (s.withLatch l).latch = l := rfl
@[simp] theorem State.withLatch_fault (l : Latch) : (s.withLatch l).fault = s.fault := rfl
@[simp] theorem State.withLatch_store (l : Latch) : (s.withLatch l).store = s.store := rfl
@[simp] theorem State.withLatch_events (l : Latch) : (s.withLatch l).events = s.events := rfl
@[simp] theorem State.withLatch_file (l : Latch) : (s.withLatch l).file = s.file := rfl
@[simp] theorem State.withLatch_present (l : Latch) : (s.withLatch l).present = s.present := rfl
@[simp] theorem State.withLatch_params (l : Latch) : (s.withLatch l).params = s.params := rfl
@[simp] theorem State.withLatch_pending (l : Latch) : (s.withLatch l).pending = s.pending := rfl
@[simp] theorem State.withLatch_replies (l : Latch) : (s.withLatch l).replies = s.replies := rfl
@[simp] theorem State.withLatch_draws (l : Latch) : (s.withLatch l).draws = s.draws := rfl

@[simp] theorem State.withFault_engine (f : Option FaultReason) : (s.withFault f).engine = s.engine := rfl
@[simp] theorem State.withFault_backupOffset (f : Option FaultReason) : (s.withFault f).backupOffset = s.backupOffset := rfl
@[simp] theorem State.withFault_latch (f : Option FaultReason) : (s.withFault f).latch = s.latch := rfl
@[simp] theorem State.withFault_fault (f : Option FaultReason) : (s.withFault f).fault = f := rfl
@[simp] theorem State.withFault_store (f : Option FaultReason) : (s.withFault f).store = s.store := rfl
@[simp] theorem State.withFault_events (f : Option FaultReason) : (s.withFault f).events = s.events := rfl
@[simp] theorem State.withFault_file (f : Option FaultReason) : (s.withFault f).file = s.file := rfl
@[simp] theorem State.withFault_present (f : Option FaultReason) : (s.withFault f).present = s.present := rfl
@[simp] theorem State.withFault_params (f : Option FaultReason) : (s.withFault f).params = s.params := rfl
@[simp] theorem State.withFault_pending (f : Option FaultReason) : (s.withFault f).pending = s.pending := rfl
@[simp] theorem State.withFault_replies (f : Option FaultReason) : (s.withFault f).replies = s.replies := rfl
@[simp] theorem State.withFault_draws (f : Option FaultReason) : (s.withFault f).draws = s.draws := rfl

@[simp] theorem State.withBlob_engine (b : Blob) : (s.withBlob b).engine = s.engine := rfl
@[simp] theorem State.withBlob_backupOffset (b : Blob) : (s.withBlob b).backupOffset = s.backupOffset := rfl
@[simp] theorem State.withBlob_latch (b : Blob) : (s.withBlob b).latch = s.latch := rfl
@[simp] theorem State.withBlob_fault (b : Blob) : (s.withBlob b).fault = s.fault := rfl
@[simp] theorem State.withBlob_store (b : Blob) : (s.withBlob b).store = { s.store with blob := b } := rfl
@[simp] theorem State.withBlob_events (b : Blob) : (s.withBlob b).events = s.events := rfl
@[simp] theorem State.withBlob_file (b : Blob) : (s.withBlob b).file = s.file := rfl
@[simp] theorem State.withBlob_present (b : Blob) : (s.withBlob b).present = s.present := rfl
@[simp] theorem State.withBlob_params (b : Blob) : (s.withBlob b).params = s.params := rfl
@[simp] theorem State.withBlob_pending (b : Blob) : (s.withBlob b).pending = s.pending := rfl
@[simp] theorem State.withBlob_replies (b : Blob) : (s.withBlob b).replies = s.replies := rfl
@[simp] theorem State.withBlob_draws (b : Blob) : (s.withBlob b).draws = s.draws := rfl

@[simp] theorem State.withCursor_engine (c : Option Nat) : (s.withCursor c).engine = s.engine := rfl
@[simp] theorem State.withCursor_backupOffset (c : Option Nat) : (s.withCursor c).backupOffset = s.backupOffset := rfl
@[simp] theorem State.withCursor_latch (c : Option Nat) : (s.withCursor c).latch = s.latch := rfl
@[simp] theorem State.withCursor_fault (c : Option Nat) : (s.withCursor c).fault = s.fault := rfl
@[simp] theorem State.withCursor_store (c : Option Nat) : (s.withCursor c).store = { s.store with cursor := c } := rfl
@[simp] theorem State.withCursor_events (c : Option Nat) : (s.withCursor c).events = s.events := rfl
@[simp] theorem State.withCursor_file (c : Option Nat) : (s.withCursor c).file = s.file := rfl
@[simp] theorem State.withCursor_present (c : Option Nat) : (s.withCursor c).present = s.present := rfl
@[simp] theorem State.withCursor_params (c : Option Nat) : (s.withCursor c).params = s.params := rfl
@[simp] theorem State.withCursor_pending (c : Option Nat) : (s.withCursor c).pending = s.pending := rfl
@[simp] theorem State.withCursor_replies (c : Option Nat) : (s.withCursor c).replies = s.replies := rfl
@[simp] theorem State.withCursor_draws (c : Option Nat) : (s.withCursor c).draws = s.draws := rfl

@[simp] theorem State.withFile_engine (f : Option Blob) : (s.withFile f).engine = s.engine := rfl
@[simp] theorem State.withFile_backupOffset (f : Option Blob) : (s.withFile f).backupOffset = s.backupOffset := rfl
@[simp] theorem State.withFile_latch (f : Option Blob) : (s.withFile f).latch = s.latch := rfl
@[simp] theorem State.withFile_fault (f : Option Blob) : (s.withFile f).fault = s.fault := rfl
@[simp] theorem State.withFile_store (f : Option Blob) : (s.withFile f).store = s.store := rfl
@[simp] theorem State.withFile_events (f : Option Blob) : (s.withFile f).events = s.events := rfl
@[simp] theorem State.withFile_file (f : Option Blob) : (s.withFile f).file = f := rfl
@[simp] theorem State.withFile_present (f : Option Blob) : (s.withFile f).present = s.present := rfl
@[simp] theorem State.withFile_params (f : Option Blob) : (s.withFile f).params = s.params := rfl
@[simp] theorem State.withFile_pending (f : Option Blob) : (s.withFile f).pending = s.pending := rfl
@[simp] theorem State.withFile_replies (f : Option Blob) : (s.withFile f).replies = s.replies := rfl
@[simp] theorem State.withFile_draws (f : Option Blob) : (s.withFile f).draws = s.draws := rfl

@[simp] theorem State.withPending_engine (l : List Operation) : (s.withPending l).engine = s.engine := rfl
@[simp] theorem State.withPending_backupOffset (l : List Operation) : (s.withPending l).backupOffset = s.backupOffset := rfl
@[simp] theorem State.withPending_latch (l : List Operation) : (s.withPending l).latch = s.latch := rfl
@[simp] theorem State.withPending_fault (l : List Operation) : (s.withPending l).fault = s.fault := rfl
@[simp] theorem State.withPending_store (l : List Operation) : (s.withPending l).store = s.store := rfl
@[simp] theorem State.withPending_events (l : List Operation) : (s.withPending l).events = s.events := rfl
@[simp] theorem State.withPending_file (l : List Operation) : (s.withPending l).file = s.file := rfl
@[simp] theorem State.withPending_present (l : List Operation) : (s.withPending l).present = s.present := rfl
@[simp] theorem State.withPending_params (l : List Operation) : (s.withPending l).params = s.params := rfl
@[simp] theorem State.withPending_pending (l : List Operation) : (s.withPending l).pending = l := rfl
@[simp] theorem State.withPending_replies (l : List Operation) : (s.withPending l).replies = s.replies := rfl
@[simp] theorem State.withPending_draws (l : List Operation) : (s.withPending l).draws = s.draws := rfl

@[simp] theorem State.withDraws_engine (n : Nat) : (s.withDraws n).engine = s.engine := rfl
@[simp] theorem State.withDraws_backupOffset (n : Nat) : (s.withDraws n).backupOffset = s.backupOffset := rfl
@[simp] theorem State.withDraws_latch (n : Nat) : (s.withDraws n).latch = s.latch := rfl
@[simp] theorem State.withDraws_fault (n : Nat) : (s.withDraws n).fault = s.fault := rfl
@[simp] theorem State.withDraws_store (n : Nat) : (s.withDraws n).store = s.store := rfl
@[simp] theorem State.withDraws_events (n : Nat) : (s.withDraws n).events = s.events := rfl
@[simp] theorem State.withDraws_file (n : Nat) : (s.withDraws n).file = s.file := rfl
@[simp] theorem State.withDraws_present (n : Nat) : (s.withDraws n).present = s.present := rfl
@[simp] theorem State.withDraws_params (n : Nat) : (s.withDraws n).params = s.params := rfl
@[simp] theorem State.withDraws_pending (n : Nat) : (s.withDraws n).pending = s.pending := rfl
@[simp] theorem State.withDraws_replies (n : Nat) : (s.withDraws n).replies = s.replies := rfl
@[simp] theorem State.withDraws_draws (n : Nat) : (s.withDraws n).draws = n := rfl

@[simp] theorem State.addEvent_engine (e : Event) : (s.addEvent e).engine = s.engine := rfl
@[simp] theorem State.addEvent_backupOffset (e : Event) : (s.addEvent e).backupOffset = s.backupOffset := rfl
@[simp] theorem State.addEvent_latch (e : Event) : (s.addEvent e).latch = s.latch := rfl
@[simp] theorem State.addEvent_fault (e : Event) : (s.addEvent e).fault = s.fault := rfl
@[simp] theorem State.addEvent_store (e : Event) : (s.addEvent e).store = s.store := rfl
@[simp] theorem State.addEvent_events (e : Event) : (s.addEvent e).events = s.events ++ [e] := rfl
@[simp] theorem State.addEvent_file (e : Event) : (s.addEvent e).file = s.file := rfl
@[simp] theorem State.addEvent_present (e : Event) : (s.addEvent e).present = s.present := rfl
@[simp] theorem State.addEvent_params (e : Event) : (s.addEvent e).params = s.params := rfl
@[simp] theorem State.addEvent_pending (e : Event) : (s.addEvent e).pending = s.pending := rfl
@[simp] theorem State.addEvent_replies (e : Event) : (s.addEvent e).replies = s.replies := rfl
@[simp] theorem State.addEvent_draws (e : Event) : (s.addEvent e).draws = s.draws := rfl

@[simp] theorem State.addReply_engine (r : Reply) : (s.addReply r).engine = s.engine := rfl
@[simp] theorem State.addReply_backupOffset (r : Reply) : (s.addReply r).backupOffset = s.backupOffset := rfl
@[simp] theorem State.addReply_latch (r : Reply) : (s.addReply r).latch = s.latch := rfl
@[simp] theorem State.addReply_fault (r : Reply) : (s.addReply r).fault = s.fault := rfl
@[simp] theorem State.addReply_store (r : Reply) : (s.addReply r).store = s.store := rfl
@[simp] theorem State.addReply_events (r : Reply) : (s.addReply r).events = s.events := rfl
@[simp] theorem State.addReply_file (r : Reply) : (s.addReply r).file = s.file := rfl
@[simp] theorem State.addReply_present (r : Reply) : (s.addReply r).present = s.present := rfl
@[simp] theorem State.addReply_params (r : Reply) : (s.addReply r).params = s.params := rfl
@[simp] theorem State.addReply_pending (r : Reply) : (s.addReply r).pending = s.pending := rfl
@[simp] theorem State.addReply_replies (r : Reply) : (s.addReply r).replies = s.replies ++ [r] := rfl
@[simp] theorem State.addReply_draws (r : Reply) : (s.addReply r).draws = s.draws := rfl

end Sys2Proof.Machine
end

