-- ==== Sys2Proof/Laws/Ops.lean ====
section
/-! SUPPORT. What each shared operation of Machine/Ops.lean can do, said once. -/

namespace Sys2Proof.Machine

/-! ### An answered exchange, field by field -/

@[simp] theorem State.answered_engine (s : State) (b : Byte) : (s.answered b).engine = { s.engine with position := s.engine.position + 1 } := rfl
@[simp] theorem State.answered_backupOffset (s : State) (b : Byte) : (s.answered b).backupOffset = s.backupOffset := rfl
@[simp] theorem State.answered_latch (s : State) (b : Byte) : (s.answered b).latch = s.latch := rfl
@[simp] theorem State.answered_fault (s : State) (b : Byte) : (s.answered b).fault = s.fault := rfl
@[simp] theorem State.answered_store (s : State) (b : Byte) : (s.answered b).store = s.store := rfl
@[simp] theorem State.answered_events (s : State) (b : Byte) : (s.answered b).events = s.events := rfl
@[simp] theorem State.answered_file (s : State) (b : Byte) : (s.answered b).file = s.file := rfl
@[simp] theorem State.answered_present (s : State) (b : Byte) : (s.answered b).present = s.present := rfl
@[simp] theorem State.answered_params (s : State) (b : Byte) : (s.answered b).params = s.params := rfl
@[simp] theorem State.answered_pending (s : State) (b : Byte) : (s.answered b).pending = s.pending := rfl
@[simp] theorem State.answered_replies (s : State) (b : Byte) : (s.answered b).replies = s.replies ++ [.byte b] := rfl
@[simp] theorem State.answered_draws (s : State) (b : Byte) : (s.answered b).draws = s.draws := rfl

/-! ### Results and conditions -/

theorem andThen_next {r : Result} {k : State → Result} {t : State} (h : andThen r k = .next t) :
    ∃ u, r = .next u ∧ k u = .next t := by
  cases r with
  | next u => exact ⟨u, rfl, h⟩
  | fault f => cases h
  | refused f => cases h

theorem whileLive_of_live {s : State} (r : Result) (h : s.Live) : whileLive s r = r := by
  simp [whileLive, h.1, h.2]

theorem whileLive_next {s t : State} {r : Result} (h : whileLive s r = .next t) : s.Live ∧ r = .next t := by
  unfold whileLive at h
  split at h
  · split at h
    · cases h
    · exact ⟨⟨‹_›, ‹_›⟩, h⟩
  · cases h

theorem whileRoom_of_room {s : State} (r : Result) (h : Params.full s.params s.engine.position = false) :
    whileRoom s r = r := by
  simp [whileRoom, h]

theorem whileRoom_next {s t : State} {r : Result} (h : whileRoom s r = .next t) :
    Params.full s.params s.engine.position = false ∧ r = .next t := by
  unfold whileRoom at h
  split at h
  · cases h
  · exact ⟨Bool.eq_false_iff.2 ‹_›, h⟩

/-- An exchange of a ready device has a step. -/
theorem whileReady {s : State} (r : Result) (h : s.Ready) : whileLive s (whileRoom s r) = r := by
  rw [whileLive_of_live _ h.1, whileRoom_of_room _ h.2]

/-- Only an exchange of a ready device has a next state. -/
theorem whileReady_next {s t : State} {r : Result} (h : whileLive s (whileRoom s r) = .next t) :
    s.Ready ∧ r = .next t := by
  obtain ⟨hl, h⟩ := whileLive_next h
  obtain ⟨hr, h⟩ := whileRoom_next h
  exact ⟨⟨hl, hr⟩, h⟩

theorem full_of_unbounded {q : Params} (p : Nat) (h : q.posWidth = none) : Params.full q p = false := by
  simp [Params.full, h]

theorem ready_of_unbounded {s : State} (h : s.Live) (hw : s.params.posWidth = none) : s.Ready :=
  ⟨h, full_of_unbounded _ hw⟩

theorem answer_eq (b : Byte) (s : State) : answer b s = .next (s.answered b) := rfl

theorem answer_next {b : Byte} {s t : State} (h : answer b s = .next t) : t = s.answered b := by
  cases h; rfl

theorem continuationFault_next {o : Byte} {s t : State} (h : continuationFault o s = .next t) :
    t = s.withFault (some (.continuationUndefined o s.engine.position)) := by
  cases h; rfl

/-! ### The store contract -/

/-- What `StoreRead` does: it finds a stored byte, or draws one in a gap, past the end or at an unspecified cursor. -/
theorem storeRead_cases (s : State) :
    (∃ c v, s.store.cursor = some c ∧ c < s.store.blob.len ∧ s.store.blob.read c = some v ∧
      storeRead s = (v, s.withCursor (some (c + 1)))) ∨
    (∃ c, s.store.cursor = some c ∧ s.store.blob.read c = none ∧
      storeRead s = (Config.draw s.draws,
        (s.withDraws (s.draws + 1)).withCursor (if c < s.store.blob.len then some (c + 1) else none))) ∨
    (s.store.cursor = none ∧ storeRead s = (Config.draw s.draws, s.withDraws (s.draws + 1))) := by
  cases hc : s.store.cursor with
  | none => exact .inr (.inr ⟨rfl, by simp [storeRead, hc, drawByte]⟩)
  | some c =>
    by_cases hl : c < s.store.blob.len
    · cases hr : s.store.blob.read c with
      | some v => exact .inl ⟨c, v, rfl, hl, hr, by simp [storeRead, hc, hl, memRead, hr]⟩
      | none => exact .inr (.inl ⟨c, rfl, hr, by simp [storeRead, hc, hl, memRead, hr, drawByte]⟩)
    · exact .inr (.inl ⟨c, rfl, by simp [Blob.read, hl], by simp [storeRead, hc, hl, drawByte]⟩)

/-- `StoreWrite` completes only at a specified cursor, and then writes there. -/
theorem storeWrite_next {v : Byte} {s t : State} (h : storeWrite v s = .next t) :
    ∃ c, s.store.cursor = some c ∧ t = (s.withBlob (s.store.blob.write c v)).withCursor (some (c + 1)) := by
  unfold storeWrite at h
  split at h
  · rename_i c hc; cases h; exact ⟨c, hc, rfl⟩
  · cases h

end Sys2Proof.Machine
end

