-- ==== Sys2Proof/Laws/Exec.lean ====
section
/-! SUPPORT. Everything a command can do (spec/40_engine.md R65, spec/41_commands.md), said once. -/

namespace Sys2Proof.Machine

/-- A command's exchange, by position. -/
theorem runCommand_of_ready {s : State} (o a b c : Byte) (d k : State → Result) (h : s.Ready) :
    runCommand o a b c d k s =
      if s.engine.position < 3 then answer 0xFF s
      else if s.engine.position = 3 then answer 0xFF (checkHeader o a b c s)
      else if s.engine.position = 4 then d s
      else k s :=
  whileReady _ h

/-- Everything a command's completed exchange can be. -/
theorem runCommand_next {o a b c : Byte} {d k : State → Result} {s t : State} (h : runCommand o a b c d k s = .next t) :
    s.Ready ∧
      ((s.engine.position < 3 ∧ t = s.answered 0xFF) ∨
       (s.engine.position = 3 ∧ t = (checkHeader o a b c s).answered 0xFF) ∨
       (s.engine.position = 4 ∧ d s = .next t) ∨
       (5 ≤ s.engine.position ∧ k s = .next t)) := by
  obtain ⟨hr, h⟩ := whileReady_next h
  refine ⟨hr, ?_⟩
  split at h
  · exact .inl ⟨‹_›, answer_next h⟩
  · split at h
    · exact .inr (.inl ⟨‹_›, answer_next h⟩)
    · split at h
      · exact .inr (.inr (.inl ⟨‹_›, h⟩))
      · exact .inr (.inr (.inr ⟨by omega, h⟩))

theorem checkHeader_cases (o a b c : Byte) (s : State) :
    checkHeader o a b c s = s ∨ checkHeader o a b c s = s.addEvent (.diag (.checksumMismatch c (checksum o a b))) := by
  unfold checkHeader
  split
  · exact .inl rfl
  · exact .inr rfl

/-- The commands that only answer at position 4 (R68, R83, R85). -/
def Silent : Instr → Bool
  | .idread _ _ => true
  | .bkrd _ _ _ => true
  | .cmd05 _ _ _ => true
  | _ => false

/-- The event a command records at position 4 (R86, R88, R89, R91, R96). -/
def reported : Instr → Option Diagnostic
  | .statrd a b _ => some (.commandLog 0x82 a b)
  | .cmd83 a b _ => some (.commandLog 0x83 a b)
  | .cmd86 a b _ => some (.commandLog 0x86 a b)
  | .cmd87 a b _ => some (.commandLog 0x87 a b)
  | .unknown o a b _ => some (.unknownOpcode o a b)
  | _ => none

/-- The effects a command can have on the machine before its answer byte is handed back. -/
inductive Effect : Instr → State → State → Prop where
  /-- Nothing but the answer. -/
  | nothing (i : Instr) (s : State) (h : s.engine.position ≠ 4 ∨ Silent i = true) : Effect i s s
  /-- A checksum mismatch at position 3. -/
  | mismatch (i : Instr) (s : State) (o a b c : Byte) (h : s.engine.position = 3) (he : encode i = [o, a, b, c]) :
      Effect i s (s.addEvent (.diag (.checksumMismatch c (checksum o a b))))
  /-- The event of position 4. -/
  | report (i : Instr) (s : State) (d : Diagnostic) (h : s.engine.position = 4) (hd : reported i = some d) :
      Effect i s (s.addEvent (.diag d))
  /-- SETOFF at position 4. -/
  | seek (a b c : Byte) (s : State) (h : s.engine.position = 4) :
      Effect (.setoff a b c) s ((s.withOffset (offsetOperand a b)).withCursor (some (offsetOperand a b).toNat))
  /-- BKWR at position 4, at a specified cursor. -/
  | write (a b c : Byte) (s : State) (k : Nat) (h : s.engine.position = 4) (hk : s.store.cursor = some k) :
      Effect (.bkwr a b c) s
        (((s.withBlob (s.store.blob.write k a)).withCursor (some (k + 1))).withFile (some (s.store.blob.write k a)))
  /-- BKRD above position 4. -/
  | read (a b c : Byte) (s : State) (h : 5 ≤ s.engine.position) : Effect (.bkrd a b c) s (storeRead s).2
  /-- STATRD at position 6. -/
  | status (a b c : Byte) (s : State) (h : s.engine.position = 6) :
      Effect (.statrd a b c) s (s.withLatch s.latch.clearIrq)
  /-- IRQARM at position 4. -/
  | arm (c : Byte) (s : State) (h : s.engine.position = 4) :
      Effect (.irqarm c) s (notify (s.withLatch (selectLatch 0x00 0x00 s.latch)))
  /-- IRQCLR at position 4. -/
  | clear (c : Byte) (s : State) (h : s.engine.position = 4) :
      Effect (.irqclr c) s (notify (s.withLatch (selectLatch 0x02 0x01 s.latch)))
  /-- IRQCTL at position 4. -/
  | control (a b c : Byte) (s : State) (h : s.engine.position = 4) :
      Effect (.irqctl a b c) s (notify (s.withLatch (selectLatch a b s.latch)))

/-- `s` becomes `t` by an effect of `i` and one answer byte. -/
def CommandAnswers (i : Instr) (s t : State) : Prop := ∃ u b, Effect i s u ∧ t = u.answered b

/-- The commands for which a continuation is undefined (R97). -/
def NoContinuation (i : Instr) : Prop :=
  (∀ x y, i ≠ .idread x y) ∧ (∀ x y z, i ≠ .bkrd x y z) ∧ (∀ x y z, i ≠ .statrd x y z) ∧ (∀ x y z, i ≠ .cmd86 x y z)

/-- `s` becomes `t` by the continuation fault of `i`. -/
def CommandFaults (i : Instr) (s t : State) : Prop :=
  ∃ o a b c, encode i = [o, a, b, c] ∧ NoContinuation i ∧ 5 ≤ s.engine.position ∧
    t = s.withFault (some (.continuationUndefined o s.engine.position))

theorem runCommand_outcome {i : Instr} {o a b c : Byte} {d k : State → Result} {s t : State}
    (h : runCommand o a b c d k s = .next t) (he : encode i = [o, a, b, c])
    (hd : s.engine.position = 4 → d s = .next t → CommandAnswers i s t)
    (hk : 5 ≤ s.engine.position → k s = .next t → CommandAnswers i s t ∨ CommandFaults i s t) :
    s.Ready ∧ (CommandAnswers i s t ∨ CommandFaults i s t) := by
  obtain ⟨hr, ⟨hp, h⟩ | ⟨hp, h⟩ | ⟨hp, h⟩ | ⟨hp, h⟩⟩ := runCommand_next h
  · exact ⟨hr, .inl ⟨s, _, .nothing i s (.inl (by omega)), h⟩⟩
  · rcases checkHeader_cases o a b c s with hc | hc <;> rw [hc] at h
    · exact ⟨hr, .inl ⟨_, _, .nothing i s (.inl (by omega)), h⟩⟩
    · exact ⟨hr, .inl ⟨_, _, .mismatch i s o a b c hp he, h⟩⟩
  · exact ⟨hr, .inl (hd hp h)⟩
  · exact ⟨hr, hk hp h⟩

theorem continuationFault_outcome {i : Instr} {o a b c : Byte} {s t : State} (he : encode i = [o, a, b, c])
    (hi : NoContinuation i) (hp : 5 ≤ s.engine.position) (h : continuationFault o s = .next t) :
    CommandAnswers i s t ∨ CommandFaults i s t :=
  .inr ⟨o, a, b, c, he, hi, hp, continuationFault_next h⟩

/-- Everything `exec` can answer as a next state: an effect and one answer byte, or the continuation fault. -/
theorem exec_next {i : Instr} {s t : State} (h : exec i s = .next t) :
    s.Ready ∧ (CommandAnswers i s t ∨ CommandFaults i s t) := by
  cases i with
  | idread b c =>
    obtain ⟨hr, h⟩ := whileReady_next (show whileLive s (whileRoom s _) = .next t from h)
    split at h <;> exact ⟨hr, .inl ⟨s, _, .nothing _ s (.inr rfl), answer_next h⟩⟩
  | setoff a b c =>
    exact runCommand_outcome h rfl (fun hp h => ⟨_, _, .seek a b c s hp, answer_next h⟩)
      fun hp => continuationFault_outcome rfl ⟨nofun, nofun, nofun, nofun⟩ hp
  | bkwr a b c =>
    refine runCommand_outcome h rfl (fun hp h => ?_) fun hp => continuationFault_outcome rfl ⟨nofun, nofun, nofun, nofun⟩ hp
    obtain ⟨u, hu, h⟩ := andThen_next h
    obtain ⟨k, hk, rfl⟩ := storeWrite_next hu
    exact ⟨_, _, .write a b c s k hp hk, answer_next h⟩
  | bkrd a b c =>
    exact runCommand_outcome h rfl (fun _ h => ⟨_, _, .nothing _ s (.inr rfl), answer_next h⟩)
      fun hp h => .inl ⟨_, _, .read a b c s hp, answer_next h⟩
  | cmd05 a b c =>
    exact runCommand_outcome h rfl (fun _ h => ⟨_, _, .nothing _ s (.inr rfl), answer_next h⟩)
      fun hp => continuationFault_outcome rfl ⟨nofun, nofun, nofun, nofun⟩ hp
  | statrd a b c =>
    refine runCommand_outcome h rfl (fun hp h => ⟨_, _, .report _ s _ hp rfl, answer_next h⟩) fun hp h => .inl ?_
    unfold statrdContinuation at h
    split at h
    · exact ⟨_, _, .status a b c s ‹_›, answer_next h⟩
    · exact ⟨_, _, .nothing _ s (.inl (by omega)), answer_next h⟩
  | cmd83 a b c =>
    exact runCommand_outcome h rfl (fun hp h => ⟨_, _, .report _ s _ hp rfl, answer_next h⟩)
      fun hp => continuationFault_outcome rfl ⟨nofun, nofun, nofun, nofun⟩ hp
  | cmd86 a b c =>
    exact runCommand_outcome h rfl (fun hp h => ⟨_, _, .report _ s _ hp rfl, answer_next h⟩)
      fun hp h => .inl ⟨_, _, .nothing _ s (.inl (by omega)), answer_next h⟩
  | cmd87 a b c =>
    exact runCommand_outcome h rfl (fun hp h => ⟨_, _, .report _ s _ hp rfl, answer_next h⟩)
      fun hp => continuationFault_outcome rfl ⟨nofun, nofun, nofun, nofun⟩ hp
  | irqarm c =>
    exact runCommand_outcome h rfl (fun hp h => ⟨_, _, .arm c s hp, answer_next h⟩)
      fun hp => continuationFault_outcome rfl ⟨nofun, nofun, nofun, nofun⟩ hp
  | irqclr c =>
    exact runCommand_outcome h rfl (fun hp h => ⟨_, _, .clear c s hp, answer_next h⟩)
      fun hp => continuationFault_outcome rfl ⟨nofun, nofun, nofun, nofun⟩ hp
  | irqctl a b c =>
    exact runCommand_outcome h rfl (fun hp h => ⟨_, _, .control a b c s hp, answer_next h⟩)
      fun hp => continuationFault_outcome rfl ⟨nofun, nofun, nofun, nofun⟩ hp
  | unknown o a b c =>
    exact runCommand_outcome h rfl (fun hp h => ⟨_, _, .report _ s _ hp rfl, answer_next h⟩)
      fun hp => continuationFault_outcome rfl ⟨nofun, nofun, nofun, nofun⟩ hp

/-- The store and the count of free values are all that `StoreRead` writes. -/
theorem storeRead_eq (s : State) :
    (storeRead s).2 = (s.withCursor (storeRead s).2.store.cursor).withDraws (storeRead s).2.draws := by
  rcases storeRead_cases s with ⟨c, v, _, _, _, h⟩ | ⟨c, _, _, h⟩ | ⟨_, h⟩ <;> rw [h] <;> rfl

/-- What no command's effect touches. -/
theorem Effect.frame {i : Instr} {s u : State} (h : Effect i s u) :
    u.engine = s.engine ∧ u.fault = s.fault ∧ u.present = s.present ∧ u.params = s.params ∧ u.pending = s.pending ∧
      u.replies = s.replies := by
  cases h <;> try exact ⟨rfl, rfl, rfl, rfl, rfl, rfl⟩
  rw [storeRead_eq]; exact ⟨rfl, rfl, rfl, rfl, rfl, rfl⟩

/-- What a command's effect does to the latch. -/
theorem Effect.latch {i : Instr} {s u : State} (h : Effect i s u) :
    u.latch = s.latch ∨
    (s.engine.position = 6 ∧ (∃ a b c, i = .statrd a b c) ∧ u.latch = s.latch.clearIrq) ∨
    (s.engine.position = 4 ∧ (∃ c, i = .irqarm c) ∧ u.latch = s.latch.arm) ∨
    (s.engine.position = 4 ∧ (∃ c, i = .irqclr c) ∧ u.latch = s.latch.clearStatus) ∨
    (s.engine.position = 4 ∧ ∃ a b c, i = .irqctl a b c ∧ u.latch = selectLatch a b s.latch) := by
  cases h <;> try exact .inl rfl
  · rw [storeRead_eq]; exact .inl rfl
  · exact .inr (.inl ⟨‹_›, ⟨_, _, _, rfl⟩, rfl⟩)
  · exact .inr (.inr (.inl ⟨‹_›, ⟨_, rfl⟩, rfl⟩))
  · exact .inr (.inr (.inr (.inl ⟨‹_›, ⟨_, rfl⟩, rfl⟩)))
  · exact .inr (.inr (.inr (.inr ⟨‹_›, _, _, _, rfl, rfl⟩)))

/-- What a command's effect does to the store's contents and file: nothing, or BKWR's write and flush. -/
theorem Effect.store {i : Instr} {s u : State} (h : Effect i s u) :
    (u.store.blob = s.store.blob ∧ u.file = s.file) ∨
    (s.engine.position = 4 ∧ ∃ a b c k, i = .bkwr a b c ∧ s.store.cursor = some k ∧
      u.store = ⟨s.store.blob.write k a, some (k + 1)⟩ ∧ u.file = some (s.store.blob.write k a)) := by
  cases h <;> try exact .inl ⟨rfl, rfl⟩
  · exact .inr ⟨‹_›, _, _, _, _, rfl, ‹_›, rfl, rfl⟩
  · rw [storeRead_eq]; exact .inl ⟨rfl, rfl⟩

/-- Before position 4 a command's effect is nothing, or the event of position 3 about the checksum byte as sent. -/
theorem Effect.of_lt {i : Instr} {s u : State} (h : Effect i s u) (hp : s.engine.position < 4) :
    u = s ∨
    (s.engine.position = 3 ∧ ∃ o a b c, encode i = [o, a, b, c] ∧
      u = s.addEvent (.diag (.checksumMismatch c (checksum o a b)))) := by
  cases h <;> first | exact .inl rfl | omega | skip
  exact .inr ⟨‹_›, _, _, _, _, ‹_›, rfl⟩

/-- What a command's effect does to `backup_offset`: nothing, or SETOFF's write. -/
theorem Effect.offset {i : Instr} {s u : State} (h : Effect i s u) :
    u.backupOffset = s.backupOffset ∨
    (s.engine.position = 4 ∧ ∃ a b c, i = .setoff a b c ∧ u.backupOffset = offsetOperand a b) := by
  cases h <;> try exact .inl rfl
  · exact .inr ⟨‹_›, _, _, _, rfl, rfl⟩
  · rw [storeRead_eq]; exact .inl rfl

end Sys2Proof.Machine
end

