-- ==== Sys2Proof/Laws/Operands.lean ====
section
/-! SUPPORT. What capturing a byte and reading the header write, and the offset as a number. -/

namespace Sys2Proof.Machine

/-- SETOFF's offset as a number: the high byte is A (R53, R41). -/
theorem offsetOperand_toNat (a b : Byte) : (offsetOperand a b).toNat = a.toNat * 256 + b.toNat := by
  have ha := a.isLt
  have hb := b.isLt
  have h1 : a.toNat * 256 % 65536 = a.toNat * 256 := Nat.mod_eq_of_lt (by omega)
  have h2 := Nat.shiftLeft_add_eq_or_of_lt hb a.toNat
  simp only [offsetOperand, BitVec.toNat_or, BitVec.toNat_shiftLeft, BitVec.toNat_setWidth, Nat.shiftLeft_eq] at h2 ⊢
  rw [Nat.mod_eq_of_lt (show a.toNat < 2 ^ 16 by omega), Nat.mod_eq_of_lt (show b.toNat < 2 ^ 16 by omega)]
  show a.toNat * 256 % 65536 ||| b.toNat = _
  rw [h1]; exact h2.symm

theorem offsetOperand_eq (a b : Byte) : offsetOperand a b = BitVec.ofNat 16 (a.toNat * 256 + b.toNat) := by
  rw [← offsetOperand_toNat]; simp

theorem capture_engine (x : Byte) (s : State) :
    (capture x s).engine = ⟨s.engine.position, if s.engine.position < 4 then s.engine.cmd.set s.engine.position x
      else s.engine.cmd⟩ := by
  unfold capture; split <;> rfl

/-- Capturing writes nothing but the command buffer. -/
theorem capture_eq (x : Byte) (s : State) : capture x s = s.withCmd (capture x s).engine.cmd := by
  unfold capture; split <;> rfl

theorem capture_position (x : Byte) (s : State) : (capture x s).engine.position = s.engine.position := by
  rw [capture_eq]; rfl

/-- Reading the header writes nothing but the count of free values. -/
theorem afterHeader_eq (n : Nat) (s : State) : afterHeader n s = s.withDraws (afterHeader n s).draws := by
  unfold afterHeader; split <;> rfl

theorem afterHeader_of_captured {n : Nat} {s : State} (h : captured s n = true) : afterHeader n s = s := by
  simp [afterHeader, h]

theorem captured_le {m n : Nat} {s : State} (h : captured s n = true) (hm : m ≤ n) : captured s m = true := by
  simp only [captured, List.all_eq_true, List.mem_range] at h ⊢
  exact fun k hk => h k (by omega)

/-- A whole header in the buffer: nothing is drawn. -/
theorem afterHeader_headerRead {s : State} (h : captured s 4 = true) : afterHeader (headerRead s) s = s := by
  unfold headerRead
  split
  · exact afterHeader_of_captured (captured_le h (by omega))
  · exact afterHeader_of_captured h

/-- The identification condition selects IDREAD (R56, R68). -/
theorem fetchCommand_of_idSelected {s : State} (h : idSelected s = true) :
    fetchCommand s = .idread (headerByte s 2) (headerByte s 3) := by
  simp only [idSelected, Bool.and_eq_true, beq_iff_eq] at h
  unfold fetchCommand decodeHeader
  rw [if_pos h]

end Sys2Proof.Machine
end

