-- ==== Sys2Proof/Laws/PerInstr.lean ====
section
/-! SUPPORT. Statements about every command as syntax, one lemma for each constructor. -/

namespace Sys2Proof.Laws.Framed

/-- A command has one header of four bytes (spec/30_encoding.md R51), and its mnemonic is that of a table row (R55). -/
def Statement (i : Instr) : Prop := (encode i).length = 4 ∧ i.mnemonic ∈ tableRows.map (·.mnemonic)

theorem idread (b c : Byte) : Statement (.idread b c) := ⟨rfl, by simp [Instr.mnemonic, tableRows]⟩
theorem setoff (a b c : Byte) : Statement (.setoff a b c) := ⟨rfl, by simp [Instr.mnemonic, tableRows]⟩
theorem bkwr (a b c : Byte) : Statement (.bkwr a b c) := ⟨rfl, by simp [Instr.mnemonic, tableRows]⟩
theorem bkrd (a b c : Byte) : Statement (.bkrd a b c) := ⟨rfl, by simp [Instr.mnemonic, tableRows]⟩
theorem cmd05 (a b c : Byte) : Statement (.cmd05 a b c) := ⟨rfl, by simp [Instr.mnemonic, tableRows]⟩
theorem statrd (a b c : Byte) : Statement (.statrd a b c) := ⟨rfl, by simp [Instr.mnemonic, tableRows]⟩
theorem cmd83 (a b c : Byte) : Statement (.cmd83 a b c) := ⟨rfl, by simp [Instr.mnemonic, tableRows]⟩
theorem cmd86 (a b c : Byte) : Statement (.cmd86 a b c) := ⟨rfl, by simp [Instr.mnemonic, tableRows]⟩
theorem cmd87 (a b c : Byte) : Statement (.cmd87 a b c) := ⟨rfl, by simp [Instr.mnemonic, tableRows]⟩
theorem irqarm (c : Byte) : Statement (.irqarm c) := ⟨rfl, by simp [Instr.mnemonic, tableRows]⟩
theorem irqclr (c : Byte) : Statement (.irqclr c) := ⟨rfl, by simp [Instr.mnemonic, tableRows]⟩
theorem irqctl (a b c : Byte) : Statement (.irqctl a b c) := ⟨rfl, by simp [Instr.mnemonic, tableRows]⟩
theorem unknown (o a b c : Byte) : Statement (.unknown o a b c) := ⟨rfl, by simp [Instr.mnemonic, tableRows]⟩

end Sys2Proof.Laws.Framed
end

