-- ==== Sys2Proof/Laws/Run.lean ====
section
/-! SUPPORT. Runs of many steps: `runs` is the host's run, and what every step keeps, every run keeps. -/

namespace Sys2Proof.Machine

theorem runs_zero (s : State) : runs 0 s = .next s := rfl

theorem runs_succ (k : Nat) (s : State) : runs (k + 1) s = andThen (step s) (runs k) := rfl

/-- One more step of a run, for any machine behind the host's interface. -/
theorem core_run_succ (M : Host.Core) (k : Nat) (s : M.State) :
    M.run (k + 1) s = Host.Outcome.casesOn (motive := fun _ => Host.Outcome M.State M.Fault M.Refusal) (M.step s)
      (M.run k) Host.Outcome.fault Host.Outcome.refused := by
  rw [Host.Core.run]
  cases M.step s <;> rfl

/-- `runs` is the host's run of the machine. -/
theorem core_run_eq_runs : ∀ (k : Nat) (s : State), Sys2Proof.core.run k s = runs k s
  | 0, _ => rfl
  | k + 1, s => by
    refine (core_run_succ Sys2Proof.core k s).trans ?_
    show Host.Outcome.casesOn (motive := fun _ => Result) (step s) (Sys2Proof.core.run k) .fault .refused = andThen (step s) (runs k)
    cases step s with
    | next t => exact core_run_eq_runs k t
    | fault f => rfl
    | refused f => rfl

theorem runs_of_step {s t : State} (k : Nat) (h : step s = .next t) : runs (k + 1) s = runs k t := by
  rw [runs_succ, h]; rfl

/-- What every step keeps, every run keeps. -/
theorem runs_keep {P : State → Prop} (hk : ∀ s t, P s → step s = .next t → P t) :
    ∀ (k : Nat) (s t : State), P s → runs k s = .next t → P t
  | 0, s, t, hs, h => by cases h; exact hs
  | k + 1, s, t, hs, h => by
    rw [runs_succ] at h
    obtain ⟨u, hu, h⟩ := andThen_next h
    exact runs_keep hk k u t (hk s u hs hu) h

end Sys2Proof.Machine
end

