-- ==== Sys2Proof/Laws/Step.lean ====
section
/-! SUPPORT. Everything an operation and a step can do, said once. -/

namespace Sys2Proof.Machine

theorem step_nil {s : State} (h : s.pending = []) : step s = idle s := by simp [step, h]

theorem step_cons {s : State} {op : Operation} {rest : List Operation} (h : s.pending = op :: rest) :
    step s = operate op (s.withPending rest) := by simp [step, h]

/-- The state in which an exchange of `x` answers or runs its command: the byte captured, free values drawn if any were. -/
def Prepared (x : Byte) (s u : State) : Prop := ∃ n, u = (capture x s).withDraws n

/-- Everything a completed exchange can be: before position 3 one answer byte, from there on the command in the buffer. -/
theorem exchange_next {x : Byte} {s t : State} (h : exchange x s = .next t) :
    s.Ready ∧
      ((s.engine.position < 3 ∧ ∃ u b, Prepared x s u ∧ t = u.answered b) ∨
       (3 ≤ s.engine.position ∧ ∃ u, Prepared x s u ∧ exec (fetchCommand (capture x s)) u = .next t)) := by
  obtain ⟨hr, h⟩ := whileReady_next h
  refine ⟨hr, ?_⟩
  have hp := capture_position x s
  unfold exchangeBody at h
  rw [hp] at h
  split at h
  · exact .inl ⟨by omega, _, _, ⟨(capture x s).draws, rfl⟩, answer_next h⟩
  · split at h
    · split at h
      · exact .inl ⟨by omega, _, _, ⟨_, afterHeader_eq 2 _⟩, answer_next h⟩
      · exact .inl ⟨by omega, _, _, ⟨_, afterHeader_eq 2 _⟩, answer_next h⟩
    · exact .inr ⟨by omega, _, ⟨_, afterHeader_eq _ _⟩, h⟩

theorem Prepared.eq {x : Byte} {s u : State} (h : Prepared x s u) :
    u = (s.withCmd (capture x s).engine.cmd).withDraws u.draws := by
  obtain ⟨n, rfl⟩ := h
  conv_lhs => rw [capture_eq]
  rfl

theorem Prepared.position {x : Byte} {s u : State} (h : Prepared x s u) : u.engine.position = s.engine.position := by
  rw [h.eq]; rfl

/-- Everything an operation can do to a state when it has a step. -/
inductive Operated : Operation → State → State → Prop where
  | chipSelect (asserted : Bool) (s : State) (h : s.Live) :
      Operated (.chipSelect asserted) s (if asserted then s.withPosition 0 else s)
  /-- An exchange at positions 0 to 2. -/
  | header (x : Byte) (s u : State) (b : Byte) (h : s.Ready) (hp : s.engine.position < 3) (hu : Prepared x s u) :
      Operated (.exchange x) s (u.answered b)
  /-- An exchange from position 3 on: the command in the buffer answers. -/
  | command (x : Byte) (s u v : State) (b : Byte) (h : s.Ready) (hp : 3 ≤ s.engine.position) (hu : Prepared x s u)
      (he : Effect (fetchCommand (capture x s)) u v) : Operated (.exchange x) s (v.answered b)
  /-- An exchange from position 5 on: the command in the buffer faults. -/
  | faulted (x : Byte) (s u t : State) (h : s.Ready) (hu : Prepared x s u)
      (hf : CommandFaults (fetchCommand (capture x s)) u t) : Operated (.exchange x) s t
  | poll (s : State) (h : s.Live) :
      Operated .poll s ((s.withLatch s.latch.polled).addReply (.irq s.latch.haveIrq))
  | save (s : State) (h : s.Live) : Operated .save s (s.addReply (.snapshot (snapshotOf s)))
  | restore (r : Snapshot) (s : State) (h : s.Live) (hf : s.params.snapshotFull = false) :
      Operated (.restore r) s (restoreCore r s)
  | restoreFull (r : Snapshot) (e : SnapshotExtra) (s : State) (h : s.Live) (hf : s.params.snapshotFull = true)
      (hr : r.extra = some e) : Operated (.restore r) s (restoreExtra e (restoreCore r s))
  | teardown (s : State) (h : s.present = true) :
      Operated .teardown s
        (freshDevice false ⟨Blob.empty, none⟩ (if s.fault.isNone then (storeFlush s).file else s.file) s)
  | construct (s : State) (h : s.present = false) :
      Operated (.construct true) s
        (freshDevice true ⟨s.file.getD Blob.empty, some 0⟩ (some (s.file.getD Blob.empty)) s)
  /-- Construction where `open` fails. -/
  | openFails (s : State) (h : s.present = false) : Operated (.construct false) s s

theorem operate_next {op : Operation} {s t : State} (h : operate op s = .next t) : Operated op s t := by
  cases op with
  | chipSelect asserted =>
    obtain ⟨hl, h⟩ := whileLive_next h
    cases h; exact .chipSelect asserted s hl
  | exchange x =>
    obtain ⟨hr, ⟨hp, u, b, hu, rfl⟩ | ⟨hp, u, hu, h⟩⟩ := exchange_next h
    · exact .header x s u b hr hp hu
    · obtain ⟨_, ⟨v, b, he, rfl⟩ | hf⟩ := exec_next h
      · exact .command x s u v b hr hp hu he
      · exact .faulted x s u t hr hu hf
  | poll =>
    obtain ⟨hl, h⟩ := whileLive_next h
    cases h; exact .poll s hl
  | save =>
    obtain ⟨hl, h⟩ := whileLive_next h
    cases h; exact .save s hl
  | restore r =>
    obtain ⟨hl, h⟩ := whileLive_next h
    split at h
    · split at h
      · cases h; exact .restoreFull r _ s hl ‹_› ‹_›
      · cases h
    · cases h; exact .restore r s hl (Bool.eq_false_iff.2 ‹_›)
  | teardown =>
    simp only [operate, Machine.teardown] at h
    split at h
    · cases h; exact .teardown s ‹_›
    · cases h
  | construct opens =>
    simp only [operate, Machine.construct] at h
    split at h
    · cases h
    · have hp := Bool.eq_false_iff.2 ‹_›
      split at h
      · cases h
        rw [show opens = true from ‹_›]
        exact .construct s hp
      · cases h
        rw [show opens = false from Bool.eq_false_iff.2 ‹_›]
        exact .openFails s hp

/-- Everything a step can do: nothing where nothing is pending, or the oldest pending operation. -/
theorem step_next {s t : State} (h : step s = .next t) :
    (s.pending = [] ∧ s.fault = none ∧ t = s) ∨
    ∃ op rest, s.pending = op :: rest ∧ Operated op (s.withPending rest) t := by
  unfold step at h
  split at h
  · unfold idle at h
    split at h
    · cases h
    · cases h; exact .inl ⟨‹_›, ‹_›, rfl⟩
  · exact .inr ⟨_, _, ‹_›, operate_next h⟩

end Sys2Proof.Machine
end

