-- ==== Sys2Proof/Tests/Slice0.lean ====
section
/-! SUPPORT. Tests whose expected results are those of spec/95_test_vectors.md (the vector is named in each comment) or written
out from the encodings of spec/30_encoding.md, and a witness for the hypotheses of every obligation. -/

namespace Sys2Proof.Tests

open Sys2Proof.Machine

/-! ### Helpers -/

/-- A device on a store of 0x20 bytes, of which 0x00, 0x10 and 0x11 are specified; armed, with a counter of 4. -/
def device (p : Nat) (o a b c : Byte) : State :=
  { State.constructed {} (some ⟨[(0x00, 0x5E), (0x10, 0x11), (0x11, 0x22)], 0x20⟩) with
    engine := ⟨p, CmdBuffer.ofHeader o a b c⟩
    backupOffset := 0x1234
    latch := ⟨true, 4, 0x02⟩ }

/-- The same with its cursor somewhere, or unspecified. -/
def deviceAt (cursor : Option Nat) (p : Nat) (o a b c : Byte) : State := (device p o a b c).withCursor cursor

/-- The device once faulted, and once torn down. -/
def faultedDevice : State := (device 5 0x01 0x00 0x00 0xB3).withFault (some (.continuationUndefined 0x01 5))
def absentDevice : State := freshDevice false ⟨Blob.empty, none⟩ (some ⟨[(0x00, 0x5E)], 1⟩) State.reset

/-- One operation pending. -/
def doing (op : Operation) (s : State) : State := s.withPending [op]

/-- Something of the next state, where there is one. -/
def after {α : Type} (r : Result) (f : State → α) : Option α :=
  match r with
  | .next t => some (f t)
  | .fault _ => none
  | .refused _ => none

/-- The step that dispatches the command with this frame word, on the device right after reset. -/
def dispatched (w : Nat) : Result := step (State.reset.withFetchWord 32 w)

/-! ### WellFormed refuses ill-formed commands (R55, R57) -/

theorem test_wf_refuses_irqctl_with_the_arm_selector : (Instr.irqctl 0x00 0x00 0xC4).wf = false := by decide
theorem test_wf_refuses_irqctl_with_the_clear_selector : (Instr.irqctl 0x02 0x01 0x63).wf = false := by decide
theorem test_wf_refuses_unknown_with_a_listed_opcode :
    ([0x01, 0x02, 0x03, 0x05, 0x82, 0x83, 0x86, 0x87, 0xFF] : List Byte).all
      (fun o => !(Instr.unknown o 0x00 0x00 0x00).wf) = true := by decide
theorem test_wf_refuses_unknown_with_the_identification_header : (Instr.unknown 0x00 0x00 0x55 0x46).wf = false := by decide
theorem test_wf_accepts_the_rest :
    (Instr.irqctl 0x02 0x00 0x78).wf = true ∧ (Instr.irqctl 0x00 0x01 0xDF).wf = true ∧
      (Instr.unknown 0x00 0x01 0x00 0x5E).wf = true ∧ (Instr.unknown 0x99 0x00 0x00 0xEB).wf = true := by decide

/-! ### Every constructor's decoding, by a word written out from its encoding (R52, R55) -/

theorem test_decode_idread : decodeTableWord 32 0x00005546 = some (.idread 0x55 0x46) := by decide
theorem test_decode_setoff : decodeTableWord 32 0x01123412 = some (.setoff 0x12 0x34 0x12) := by decide
theorem test_decode_bkwr : decodeTableWord 32 0x02AB00B8 = some (.bkwr 0xAB 0x00 0xB8) := by decide
theorem test_decode_bkrd : decodeTableWord 32 0x03FFFF5F = some (.bkrd 0xFF 0xFF 0x5F) := by decide
theorem test_decode_cmd05 : decodeTableWord 32 0x05000049 = some (.cmd05 0x00 0x00 0x49) := by decide
theorem test_decode_statrd : decodeTableWord 32 0x8200000F = some (.statrd 0x00 0x00 0x0F) := by decide
theorem test_decode_cmd83 : decodeTableWord 32 0x830000BC = some (.cmd83 0x00 0x00 0xBC) := by decide
theorem test_decode_cmd86 : decodeTableWord 32 0x860000F5 = some (.cmd86 0x00 0x00 0xF5) := by decide
theorem test_decode_cmd87 : decodeTableWord 32 0x87000046 = some (.cmd87 0x00 0x00 0x46) := by decide
theorem test_decode_irqarm : decodeTableWord 32 0xFF0000C4 = some (.irqarm 0xC4) := by decide
theorem test_decode_irqclr : decodeTableWord 32 0xFF020163 = some (.irqclr 0x63) := by decide
theorem test_decode_irqctl : decodeTableWord 32 0xFF020078 = some (.irqctl 0x02 0x00 0x78) := by decide
theorem test_decode_unknown : decodeTableWord 32 0x0001005E = some (.unknown 0x00 0x01 0x00 0x5E) := by decide

/-- The opcodes beside listed ones are unrecognised (95 L2.1). -/
theorem test_decode_neighbours_are_unknown :
    ([0x04, 0x06, 0x7F, 0x80, 0x81, 0x84, 0x85, 0x88, 0x99, 0xFE] : List Byte).all
      (fun o => decodeHeader o 0x00 0x00 0x00 == .unknown o 0x00 0x00 0x00) = true := by decide

theorem test_decode_refuses_three_bytes : decode [0x03, 0x00, 0x00] = .error (.shortHeader 3) := rfl

/-! ### The checksum (95 L2.1) -/

theorem test_checksum_first_byte :
    (List.range 8).map (fun k => checksum (0x80 >>> k) 0x00 0x00) = [0x72, 0x39, 0x91, 0xC5, 0xEF, 0xFA, 0x7D, 0xB3] := by
  decide +kernel
theorem test_checksum_second_byte :
    (List.range 8).map (fun k => checksum 0x00 (0x80 >>> k) 0x00) = [0xD4, 0x6A, 0x35, 0x97, 0xC6, 0x63, 0xBC, 0x5E] := by
  decide +kernel
theorem test_checksum_third_byte :
    (List.range 8).map (fun k => checksum 0x00 0x00 (0x80 >>> k)) = [0x2F, 0x9A, 0x4D, 0xAB, 0xD8, 0x6C, 0x36, 0x1B] := by
  decide +kernel
theorem test_checksum_headers :
    checksum 0x01 0x12 0x34 = 0x12 ∧ checksum 0xFF 0xFF 0xFF = 0x55 ∧ checksum 0xAA 0x55 0xAA = 0x3D ∧
      checksum 0x7F 0x00 0x00 = 0xB6 := by decide +kernel

/-! ### Commands: one step each -/

/-- V-E3: the fifth exchange of an identification read. -/
theorem test_idread : after (dispatched 0x00000000) (·.replies) = some [.byte 0x10] := by decide
/-- V-E5: position 9. -/
theorem test_idread_repeats :
    after (step (doing (.exchange 0xAA) (device 9 0x00 0x00 0x77 0x88))) (fun t => (t.replies, t.fault)) =
      some ([.byte 0x00], none) := by decide

/-- V-C1. -/
theorem test_setoff :
    after (dispatched 0x01123412) (fun t => (t.replies, t.backupOffset, t.store.cursor)) =
      some ([.byte 0x01], 0x1234, some 0x1234) := by decide
/-- V-F1: the exchange after the dispatch faults and answers nothing. -/
theorem test_setoff_continuation :
    after (step (doing (.exchange 0x02) (device 5 0x01 0x00 0x00 0xB3))) (fun t => (t.replies, t.fault, t.engine.position)) =
      some ([], some (.continuationUndefined 0x01 5), 5) := by decide

/-- V-C3, on an empty store. -/
theorem test_bkwr :
    after (dispatched 0x025A00FA) (fun t => (t.replies, t.store.blob.read 0, t.store.cursor, t.file)) =
      some ([.byte 0x01], some 0x5A, some 1, some ⟨[(0, 0x5A)], 1⟩) := by decide
/-- V-C4: the cursor passes 0xFFFF. -/
theorem test_bkwr_past_the_offset_range :
    after (step (doing (.exchange 0x00) (deviceAt (some 0xFFFF) 4 0x02 0x77 0x00 0x34)))
        (fun t => (t.store.blob.read 0xFFFF, t.store.cursor, t.store.blob.len)) =
      some (some 0x77, some 0x10000, 0x10000) := by decide

/-- V-C5. -/
theorem test_bkrd_acknowledges :
    after (dispatched 0x030000CE) (fun t => (t.replies, t.store.cursor)) = some ([.byte 0x01], some 0) := by decide
/-- V-K1: the first byte after the acknowledge. -/
theorem test_bkrd_reads :
    after (step (doing (.exchange 0x00) (deviceAt (some 0x10) 5 0x03 0x00 0x00 0xCE))) (fun t => (t.replies, t.store.cursor)) =
      some ([.byte 0x11], some 0x11) := by decide

/-- V-C6. -/
theorem test_cmd05 : after (dispatched 0x05000049) (fun t => (t.replies, t.events)) = some ([.byte 0x04], []) := by decide

/-- V-C7. -/
theorem test_statrd :
    after (dispatched 0x8200000F) (fun t => (t.replies, t.events, t.latch)) =
      some ([.byte 0x04], [.diag (.commandLog 0x82 0x00 0x00)], ⟨false, 0, 0x00⟩) := by decide
/-- V-K2: position 6. -/
theorem test_statrd_status :
    after (step (doing (.exchange 0x00) (device 6 0x82 0x00 0x00 0x0F))) (fun t => (t.replies, t.latch)) =
      some ([.byte 0x02], ⟨false, 4, 0x02⟩) := by decide

/-- V-C8. -/
theorem test_cmd83 :
    after (dispatched 0x830000BC) (fun t => (t.replies, t.events)) =
      some ([.byte 0x04], [.diag (.commandLog 0x83 0x00 0x00)]) := by decide

/-- V-C9. -/
theorem test_cmd86 :
    after (dispatched 0x860000F5) (fun t => (t.replies, t.events)) =
      some ([.byte 0x04], [.diag (.commandLog 0x86 0x00 0x00)]) := by decide
/-- V-K5. -/
theorem test_cmd86_continues :
    after (step (doing (.exchange 0x00) (device 5 0x86 0x00 0x00 0xF5))) (fun t => (t.replies, t.engine.position)) =
      some ([.byte 0x00], 6) := by decide

/-- V-C10. -/
theorem test_cmd87 :
    after (dispatched 0x87000046) (fun t => (t.replies, t.events)) =
      some ([.byte 0x04], [.diag (.commandLog 0x87 0x00 0x00)]) := by decide

/-- V-C11. -/
theorem test_irqarm :
    after (dispatched 0xFF0000C4) (fun t => (t.replies, t.latch, t.events)) =
      some ([.byte 0x04], ⟨true, 0, 0x02⟩, [.notify]) := by decide
/-- V-F4: the arm at position 4 stands. -/
theorem test_irqarm_continuation :
    after (step (doing (.exchange 0x00) (device 5 0xFF 0x00 0x00 0xC4))) (fun t => (t.fault, t.latch.haveIrq)) =
      some (some (.continuationUndefined 0xFF 5), true) := by decide

/-- L1-6. -/
theorem test_irqclr :
    after (step (doing (.exchange 0x00) (device 4 0xFF 0x02 0x01 0x63))) (fun t => (t.replies, t.latch, t.events)) =
      some ([.byte 0x04], ⟨true, 4, 0x00⟩, [.notify]) := by decide

/-- V-C14: only one byte of the clear selector. -/
theorem test_irqctl :
    after (step (doing (.exchange 0x00) (device 4 0xFF 0x02 0x00 0x78))) (fun t => (t.replies, t.latch, t.events)) =
      some ([.byte 0x04], ⟨true, 4, 0x02⟩, [.notify]) := by decide

/-- V-C16. -/
theorem test_unknown :
    after (dispatched 0x0001005E) (fun t => (t.replies, t.events)) =
      some ([.byte 0x04], [.diag (.unknownOpcode 0x00 0x01 0x00)]) := by decide
/-- V-F2. -/
theorem test_unknown_continuation :
    after (step (doing (.exchange 0x00) (device 5 0x99 0x00 0x00 0xEB))) (·.fault) =
      some (some (.continuationUndefined 0x99 5)) := by decide

/-! ### The engine and the other operations -/

/-- L1-2: the check of position 3, with 0x00 in place of 0xCE. -/
theorem test_checksum_mismatch :
    after (step (doing (.exchange 0x00) (device 3 0x03 0x00 0x00 0xFF))) (fun t => (t.replies, t.events, t.engine.cmd.b3)) =
      some ([.byte 0xFF], [.diag (.checksumMismatch 0x00 0xCE)], some 0x00) := by decide +kernel
/-- V-E9: the byte is captured before the identification test; stale bytes are not read. -/
theorem test_identification_at_two :
    after (step (doing (.exchange 0x00) (device 2 0x00 0x00 0x03 0x22))) (fun t => (t.replies, t.engine)) =
      some ([.byte 0x06], ⟨3, CmdBuffer.ofHeader 0x00 0x00 0x00 0x22⟩) := by decide
/-- V-E12: the byte at position 4 is not captured. -/
theorem test_dispatch_byte_is_not_captured :
    after (step (doing (.exchange 0x7E) (device 4 0x05 0x00 0x00 0x49))) (·.engine) =
      some ⟨5, CmdBuffer.ofHeader 0x05 0x00 0x00 0x49⟩ := by decide
/-- V-E1 and V-E2. -/
theorem test_chip_select :
    after (step (doing (.chipSelect true) (device 3 0x01 0x12 0x34 0x00))) (·.engine.position) = some 0 ∧
      after (step (doing (.chipSelect false) (device 3 0x01 0x12 0x34 0x00))) (·.engine.position) = some 3 := by decide
/-- L2.2, under `POS_WIDTH = 8`: the exchange at 0xFE answers, the one at 0xFF is refused. -/
theorem test_finite_position :
    (operate (.exchange 0x00) { device 0xFF 0x00 0x00 0x00 0x00 with params := ⟨some 8, false⟩ } matches
      .refused .positionOverflow) ∧
    after (operate (.exchange 0x00) { device 0xFE 0x00 0x00 0x00 0x00 with params := ⟨some 8, false⟩ })
      (·.engine.position) = some 0xFF := by decide
/-- V-L3 and V-L7. -/
theorem test_poll_decays :
    after (operate .poll (device 0 0x00 0x00 0x00 0x00)) (fun t => (t.replies, t.latch)) =
      some ([.irq true], ⟨false, 5, 0x02⟩) ∧
    after (operate .poll ((device 0 0x00 0x00 0x00 0x00).withLatch ⟨true, 9, 0x02⟩)) (·.latch) =
      some ⟨false, 10, 0x02⟩ := by decide
/-- V-L4. -/
theorem test_poll_of_a_clear_flag :
    after (operate .poll ((device 0 0x00 0x00 0x00 0x00).withLatch ⟨false, 5, 0x02⟩)) (fun t => (t.replies, t.latch)) =
      some ([.irq false], ⟨false, 5, 0x02⟩) := by decide
/-- V-S7 and V-S6. -/
theorem test_save :
    after (operate .save (device 5 0xFF 0x00 0x00 0xC4)) (·.replies) =
      some [.snapshot ⟨5, true, CmdBuffer.ofHeader 0xFF 0x00 0x00 0xC4, none⟩] ∧
    after (operate .save { device 5 0xFF 0x00 0x00 0xC4 with params := ⟨none, true⟩ }) (·.replies) =
      some [.snapshot ⟨5, true, CmdBuffer.ofHeader 0xFF 0x00 0x00 0xC4, some ⟨0x1234, 4, 0x02⟩⟩] := by decide
/-- V-S4. -/
theorem test_restore :
    after (operate (.restore ⟨0, false, CmdBuffer.ofHeader 0x00 0x00 0x00 0x00, none⟩) (device 5 0x01 0x12 0x34 0x12))
        (fun t => (t.engine.position, t.backupOffset, t.latch, t.store.cursor)) =
      some (0, 0x1234, ⟨false, 4, 0x02⟩, some 0) := by decide
/-- V-F7. -/
theorem test_faulted_device_is_stuck :
    step (doing .poll faultedDevice) = .fault (.stuck (.continuationUndefined 0x01 5)) := rfl
/-- R109: a teardown leaves no fault. -/
theorem test_teardown_of_a_faulted_device :
    after (step (doing .teardown faultedDevice)) (fun t => (t.fault, t.present)) = some (none, false) := by decide
/-- V-R2. -/
theorem test_write_at_unspecified_cursor :
    step (doing (.exchange 0x00) (deviceAt none 4 0x02 0x33 0x00 0x1D)) = .refused .writeAtUnspecifiedCursor := rfl
/-- V-R1: past the end the byte is a draw and the cursor becomes unspecified. -/
theorem test_read_past_the_end :
    after (step (doing (.exchange 0x00) (deviceAt (some 0x20) 7 0x03 0x00 0x00 0xCE))) (fun t => (t.replies, t.store.cursor)) =
      some ([.byte (Config.draw 0)], none) := rfl
/-- V-R4: the gap below a write past the end is unspecified. -/
theorem test_write_leaves_a_gap :
    Blob.write Blob.empty 0x10 0xAB = ⟨[(0x10, 0xAB)], 0x11⟩ ∧ (Blob.write Blob.empty 0x10 0xAB).read 0x0F = none := by decide
/-- R36: bytes beyond the old end do not come back when the blob grows over them. -/
theorem test_write_drops_the_gap : Blob.write ⟨[(0, 0x11), (5, 0x22)], 2⟩ 8 0x33 = ⟨[(0, 0x11), (8, 0x33)], 9⟩ := by decide

theorem test_reset_memory_is_canonical : State.reset.store.blob.wf = true := rfl

/-! ### The hypotheses of every obligation are met -/

theorem device_ready (p : Nat) (o a b c : Byte) : (device p o a b c).Ready := ⟨⟨rfl, rfl⟩, rfl⟩
theorem deviceAt_ready (k : Option Nat) (p : Nat) (o a b c : Byte) : (deviceAt k p o a b c).Ready := ⟨⟨rfl, rfl⟩, rfl⟩
theorem device_live (p : Nat) (o a b c : Byte) : (device p o a b c).Live := ⟨rfl, rfl⟩

theorem witness_DecodeOfEncodeIsTheCommand :
    (Instr.unknown 0x00 0x01 0x00 0x5E).wf = true ∧ (Instr.irqctl 0x02 0x00 0x78).wf = true := by decide
theorem witness_ConstructionOpensTheStoreFile : absentDevice.present = false := rfl
theorem witness_StoreContentsSurvivePowerOff :
    (device 3 0x01 0x12 0x34 0x12).Live ∧
      (faultedDevice.present = true ∧ faultedDevice.fault = some (.continuationUndefined 0x01 5)) :=
  ⟨device_live _ _ _ _ _, rfl, rfl⟩
theorem witness_ChipSelectResetsOnlyPosition :
    ((device 3 0x01 0x12 0x34 0x12).present = true ∧ (device 3 0x01 0x12 0x34 0x12).fault = none) ∧
      (faultedDevice.present = true ∧ faultedDevice.fault = some (.continuationUndefined 0x01 5)) :=
  ⟨⟨rfl, rfl⟩, rfl, rfl⟩
theorem witness_SaveReturnsTheTuple : (device 5 0xFF 0x00 0x00 0xC4).Live := device_live _ _ _ _ _
/-- Positions 0 and 1, and 2 with a header that differs from the identification read in its second byte only. -/
theorem witness_GapCapturesAndAnswersFF :
    ((doing (.exchange 0x5A) (device 0 0x00 0x00 0x00 0x00)).Ready ∧
      (doing (.exchange 0x5A) (device 0 0x00 0x00 0x00 0x00)).pending = [.exchange 0x5A] ∧
      (doing (.exchange 0x5A) (device 0 0x00 0x00 0x00 0x00)).engine.position < 2) ∧
    ((doing (.exchange 0x5A) (device 1 0x00 0x00 0x00 0x00)).Ready ∧
      (doing (.exchange 0x5A) (device 1 0x00 0x00 0x00 0x00)).engine.position < 2) ∧
    ((doing (.exchange 0x5A) (device 2 0x00 0x01 0x00 0x00)).Ready ∧
      (doing (.exchange 0x5A) (device 2 0x00 0x01 0x00 0x00)).engine.position = 2 ∧
      (doing (.exchange 0x5A) (device 2 0x00 0x01 0x00 0x00)).engine.cmd.get 0 = some 0x00 ∧
      (doing (.exchange 0x5A) (device 2 0x00 0x01 0x00 0x00)).engine.cmd.get 1 = some 0x01 ∧
      ¬((0x00 : Byte) = 0x00 ∧ (0x01 : Byte) = 0x00)) :=
  ⟨⟨⟨⟨rfl, rfl⟩, rfl⟩, rfl, by decide⟩, ⟨⟨⟨rfl, rfl⟩, rfl⟩, by decide⟩, ⟨⟨⟨rfl, rfl⟩, rfl⟩, rfl, rfl, rfl, by decide⟩⟩
/-- At position 2, the first, and at 4, where the byte sent is no longer captured. -/
theorem witness_IdentificationReadAtEveryPosition :
    (∃ s : State, s.Ready ∧ s.pending = .exchange 0x77 :: [] ∧ s.engine.position = 2 ∧ 2 ≤ s.engine.position ∧
      s.engine.cmd.get 0 = some 0x00 ∧ s.engine.cmd.get 1 = some 0x00) ∧
    (∃ s : State, s.Ready ∧ s.pending = .exchange 0x77 :: [] ∧ s.engine.position = 4 ∧ 2 ≤ s.engine.position ∧
      s.engine.cmd.get 0 = some 0x00 ∧ s.engine.cmd.get 1 = some 0x00) :=
  ⟨⟨doing (.exchange 0x77) (device 2 0x00 0x00 0x34 0x12), ⟨⟨rfl, rfl⟩, rfl⟩, rfl, rfl, by decide, rfl, rfl⟩,
    ⟨doing (.exchange 0x77) (device 4 0x00 0x00 0x55 0x46), ⟨⟨rfl, rfl⟩, rfl⟩, rfl, rfl, by decide, rfl, rfl⟩⟩
/-- An identification read of five exchanges after the two zeros (V-E4), and one of none. -/
theorem witness_IdentificationReadRepeatsForever :
    ∃ (s u : State) (inputs : List Byte), inputs.length = 5 ∧
      (s.Live ∧ s.params.posWidth = none ∧
        s.pending = .chipSelect true :: .exchange 0x00 :: .exchange 0x00 :: (inputs.map Operation.exchange ++ [])) ∧
      (u.Live ∧ u.params.posWidth = none ∧
        u.pending = .chipSelect true :: .exchange 0x00 :: .exchange 0x00 :: (([] : List Byte).map Operation.exchange ++ [])) :=
  ⟨(device 7 0x01 0x12 0x34 0x12).withPending ([.chipSelect true, .exchange 0x00, .exchange 0x00] ++
      ([0x55, 0x46, 0x00, 0x00, 0x00] : List Byte).map Operation.exchange),
    (device 7 0x01 0x12 0x34 0x12).withPending [.chipSelect true, .exchange 0x00, .exchange 0x00],
    [0x55, 0x46, 0x00, 0x00, 0x00], rfl, ⟨⟨rfl, rfl⟩, rfl, rfl⟩, ⟨⟨rfl, rfl⟩, rfl, rfl⟩⟩
/-- With the right checksum sent, and with a wrong one. -/
theorem witness_PositionThreeOnlyChecksTheHeader :
    (∃ s : State, s.Ready ∧ s.engine.position = 3 ∧ s.pending = .exchange 0xCE :: [] ∧ s.engine.cmd.get 0 = some 0x03 ∧
      s.engine.cmd.get 1 = some 0x00 ∧ s.engine.cmd.get 2 = some 0x00) ∧
    (∃ s : State, s.Ready ∧ s.engine.position = 3 ∧ s.pending = .exchange 0x00 :: [] ∧ s.engine.cmd.get 0 = some 0x03 ∧
      s.engine.cmd.get 1 = some 0x00 ∧ s.engine.cmd.get 2 = some 0x00) ∧
    ¬((0x03 : Byte) = 0x00 ∧ (0x00 : Byte) = 0x00) ∧ checksum 0x03 0x00 0x00 = 0xCE :=
  ⟨⟨doing (.exchange 0xCE) (device 3 0x03 0x00 0x00 0x12), ⟨⟨rfl, rfl⟩, rfl⟩, rfl, rfl, rfl, rfl, rfl⟩,
    ⟨doing (.exchange 0x00) (device 3 0x03 0x00 0x00 0x12), ⟨⟨rfl, rfl⟩, rfl⟩, rfl, rfl, rfl, rfl, rfl⟩, by decide,
    by decide +kernel⟩
/-- At position 3, where the byte sent completes the header, and at 4. -/
theorem witness_StepRunsTheDecodedCommand :
    (∃ s : State, s.Ready ∧ s.engine.position = 3 ∧ s.pending = [.exchange 0x12] ∧
      (if s.engine.position = 3 then s.engine.cmd.set 3 0x12 else s.engine.cmd) =
        ⟨some 0x01, some 0x12, some 0x34, some 0x12⟩) ∧
    (∃ s : State, s.Ready ∧ s.engine.position = 4 ∧ s.pending = [.exchange 0x00] ∧
      (if s.engine.position = 3 then s.engine.cmd.set 3 0x00 else s.engine.cmd) =
        ⟨some 0x01, some 0x12, some 0x34, some 0x12⟩) ∧
    (decode [0x01, 0x12, 0x34, 0x12] matches .ok (.setoff 0x12 0x34 0x12, [])) :=
  ⟨⟨doing (.exchange 0x12) (device 3 0x01 0x12 0x34 0x00), ⟨⟨rfl, rfl⟩, rfl⟩, rfl, rfl, rfl⟩,
    ⟨doing (.exchange 0x00) (device 4 0x01 0x12 0x34 0x12), ⟨⟨rfl, rfl⟩, rfl⟩, rfl, rfl, rfl⟩, by decide⟩
theorem witness_TransactionDispatchesItsCommand :
    ∃ s : State, s.Live ∧ s.params.posWidth = none ∧ ¬((0x00 : Byte) = 0x00 ∧ (0x01 : Byte) = 0x00) ∧
      s.pending = commandOps 0x00 0x01 0x00 0x5E 0x00 ++ [] :=
  ⟨(device 7 0x01 0x12 0x34 0x12).withPending (commandOps 0x00 0x01 0x00 0x5E 0x00), ⟨rfl, rfl⟩, rfl, by decide, rfl⟩
theorem witness_InputIsIgnoredFromPositionFour : 4 ≤ (device 4 0x05 0x00 0x00 0x49).engine.position := by decide
/-- One exchange that answers, one that faults. -/
theorem witness_ExchangeAdvancesOrFaults :
    (∃ t, step (doing (.exchange 0x00) (device 4 0x01 0x00 0x00 0xB3)) = .next t ∧ t.fault = none) ∧
    (∃ t, step (doing (.exchange 0x00) (device 5 0x01 0x00 0x00 0xB3)) = .next t ∧ t.fault ≠ none) :=
  ⟨⟨_, rfl, rfl⟩, ⟨_, rfl, by decide⟩⟩
/-- At position 3 with a wrong checksum, which records an event, and at position 2. -/
theorem witness_HeaderAloneDoesNothing :
    (∃ t, (doing (.exchange 0x00) (device 3 0x03 0x00 0x00 0xFF)).engine.position < 4 ∧
      step (doing (.exchange 0x00) (device 3 0x03 0x00 0x00 0xFF)) = .next t) ∧
    (∃ t, (doing (.exchange 0x00) (device 2 0x03 0x00 0x00 0xFF)).engine.position < 4 ∧
      step (doing (.exchange 0x00) (device 2 0x03 0x00 0x00 0xFF)) = .next t) :=
  ⟨⟨_, by decide, rfl⟩, _, by decide, rfl⟩
theorem witness_IdreadAnswersTheSequence :
    (device 2 0x00 0x00 0x00 0x00).Ready ∧ 2 ≤ (device 2 0x00 0x00 0x00 0x00).engine.position :=
  ⟨device_ready _ _ _ _ _, by decide⟩
theorem position_four (o a b c : Byte) : (device 4 o a b c).Ready ∧ (device 4 o a b c).engine.position = 4 :=
  ⟨device_ready _ _ _ _ _, rfl⟩
theorem witness_SetoffSeeksToTheOffset : (device 4 0x01 0xFF 0xFF 0x22).Ready ∧ (device 4 0x01 0xFF 0xFF 0x22).engine.position = 4 :=
  position_four _ _ _ _
theorem witness_BkrdAcknowledges : (device 4 0x03 0xFF 0xFF 0x5F).Ready ∧ (device 4 0x03 0xFF 0xFF 0x5F).engine.position = 4 :=
  position_four _ _ _ _
theorem witness_CmdFiveOnlyAnswers : (device 4 0x05 0x00 0x00 0x49).Ready ∧ (device 4 0x05 0x00 0x00 0x49).engine.position = 4 :=
  position_four _ _ _ _
theorem witness_StatrdLogsAtDispatch : (device 4 0x82 0x00 0x00 0x0F).Ready ∧ (device 4 0x82 0x00 0x00 0x0F).engine.position = 4 :=
  position_four _ _ _ _
theorem witness_LoggedCommandsOnlyLog : (device 4 0x83 0x00 0x00 0xBC).Ready ∧ (device 4 0x83 0x00 0x00 0xBC).engine.position = 4 :=
  position_four _ _ _ _
theorem witness_CmdEightySixLogsAtDispatch : (device 4 0x86 0x00 0x00 0xF5).Ready ∧ (device 4 0x86 0x00 0x00 0xF5).engine.position = 4 :=
  position_four _ _ _ _
theorem witness_IrqarmArmsTheLatch : (device 4 0xFF 0x00 0x00 0xC4).Ready ∧ (device 4 0xFF 0x00 0x00 0xC4).engine.position = 4 :=
  position_four _ _ _ _
theorem witness_IrqclrClearsOnlyTheStatus : (device 4 0xFF 0x02 0x01 0x63).Ready ∧ (device 4 0xFF 0x02 0x01 0x63).engine.position = 4 :=
  position_four _ _ _ _
theorem witness_UnknownOnlyReports : (device 4 0x99 0x00 0x00 0xEB).Ready ∧ (device 4 0x99 0x00 0x00 0xEB).engine.position = 4 :=
  position_four _ _ _ _
/-- Wherever the cursor is, past the end of the store too. -/
theorem witness_BkwrWritesAtTheCursor (k : Nat) :
    (deviceAt (some k) 4 0x02 0xAB 0x00 0xB8).Ready ∧ (deviceAt (some k) 4 0x02 0xAB 0x00 0xB8).engine.position = 4 ∧
      (deviceAt (some k) 4 0x02 0xAB 0x00 0xB8).store.cursor = some k :=
  ⟨deviceAt_ready _ _ _ _ _ _, rfl, rfl⟩
theorem witness_BkwrChangesOneByte :
    (deviceAt (some 0xFFFF) 4 0x02 0xAB 0x00 0xB8).engine.position = 4 ∧
      (deviceAt (some 0xFFFF) 4 0x02 0xAB 0x00 0xB8).store.cursor = some 0xFFFF ∧
      ∃ t, exec (.bkwr 0xAB 0x00 0xB8) (deviceAt (some 0xFFFF) 4 0x02 0xAB 0x00 0xB8) = .next t :=
  ⟨rfl, rfl, _, rfl⟩
theorem witness_BkwrRefusedAtAnUnspecifiedCursor :
    (deviceAt none 4 0x02 0xAB 0x00 0xB8).Ready ∧ (deviceAt none 4 0x02 0xAB 0x00 0xB8).engine.position = 4 ∧
      (deviceAt none 4 0x02 0xAB 0x00 0xB8).store.cursor = none :=
  ⟨deviceAt_ready _ _ _ _ _ _, rfl, rfl⟩
theorem witness_BkrdReadsTheByteAtTheCursor :
    (deviceAt (some 0x11) 5 0x03 0x00 0x00 0xCE).Ready ∧ 5 ≤ (deviceAt (some 0x11) 5 0x03 0x00 0x00 0xCE).engine.position ∧
      (deviceAt (some 0x11) 5 0x03 0x00 0x00 0xCE).store.cursor = some 0x11 ∧
      (deviceAt (some 0x11) 5 0x03 0x00 0x00 0xCE).store.blob.read 0x11 = some 0x22 :=
  ⟨deviceAt_ready _ _ _ _ _ _, by decide, rfl, rfl⟩
/-- In a gap at the last address of the store, at its end, and with the cursor unspecified. -/
theorem witness_BkrdDrawsAnUnspecifiedByte :
    ((deviceAt (some 0x1F) 5 0x03 0x00 0x00 0xCE).Ready ∧ 5 ≤ (deviceAt (some 0x1F) 5 0x03 0x00 0x00 0xCE).engine.position ∧
      (deviceAt (some 0x1F) 5 0x03 0x00 0x00 0xCE).store.cursor = some 0x1F ∧
      (deviceAt (some 0x1F) 5 0x03 0x00 0x00 0xCE).store.blob.read 0x1F = none ∧
      0x1F < (deviceAt (some 0x1F) 5 0x03 0x00 0x00 0xCE).store.blob.len) ∧
    ((deviceAt (some 0x20) 5 0x03 0x00 0x00 0xCE).Ready ∧
      (deviceAt (some 0x20) 5 0x03 0x00 0x00 0xCE).store.blob.read 0x20 = none ∧
      ¬0x20 < (deviceAt (some 0x20) 5 0x03 0x00 0x00 0xCE).store.blob.len) ∧
    ((deviceAt none 5 0x03 0x00 0x00 0xCE).Ready ∧ (deviceAt none 5 0x03 0x00 0x00 0xCE).store.cursor = none) :=
  ⟨⟨deviceAt_ready _ _ _ _ _ _, by decide, rfl, rfl, by decide⟩, ⟨deviceAt_ready _ _ _ _ _ _, rfl, by decide⟩,
    deviceAt_ready _ _ _ _ _ _, rfl⟩
/-- Positions 5, 6 and 7. -/
theorem witness_StatrdReadsTheStatusAtSix :
    ((device 5 0x82 0x00 0x00 0x0F).Ready ∧ 5 ≤ (device 5 0x82 0x00 0x00 0x0F).engine.position ∧
      (device 5 0x82 0x00 0x00 0x0F).engine.position ≠ 6) ∧
    ((device 6 0x82 0x00 0x00 0x0F).Ready ∧ 5 ≤ (device 6 0x82 0x00 0x00 0x0F).engine.position ∧
      (device 6 0x82 0x00 0x00 0x0F).engine.position = 6) ∧
    ((device 7 0x82 0x00 0x00 0x0F).Ready ∧ (device 7 0x82 0x00 0x00 0x0F).engine.position ≠ 6) :=
  ⟨⟨device_ready _ _ _ _ _, by decide, by decide⟩, ⟨device_ready _ _ _ _ _, by decide, rfl⟩, device_ready _ _ _ _ _, by decide⟩
theorem witness_CmdEightySixContinuesWithZero :
    (device 5 0x86 0x00 0x00 0xF5).Ready ∧ 5 ≤ (device 5 0x86 0x00 0x00 0xF5).engine.position :=
  ⟨device_ready _ _ _ _ _, by decide⟩
/-- Selectors that share one byte with each named selector. -/
theorem witness_IrqctlOnlyNotifies :
    (device 4 0xFF 0x02 0x00 0x78).Ready ∧ (device 4 0xFF 0x02 0x00 0x78).engine.position = 4 ∧
      ¬((0x02 : Byte) = 0x00 ∧ (0x00 : Byte) = 0x00) ∧ ¬((0x02 : Byte) = 0x02 ∧ (0x00 : Byte) = 0x01) ∧
      ¬((0x00 : Byte) = 0x00 ∧ (0x01 : Byte) = 0x00) ∧ ¬((0x00 : Byte) = 0x02 ∧ (0x01 : Byte) = 0x01) :=
  ⟨device_ready _ _ _ _ _, rfl, by decide, by decide, by decide, by decide⟩
theorem witness_ContinuationFaultsWithoutAContinuation :
    (Instr.unknown 0x00 0x01 0x00 0x5E).wf = true ∧ encode (.unknown 0x00 0x01 0x00 0x5E) = [0x00, 0x01, 0x00, 0x5E] ∧
      ¬((0x00 : Byte) = 0x00 ∧ (0x01 : Byte) = 0x00) ∧ (0x00 : Byte) ≠ 0x03 ∧ (0x00 : Byte) ≠ 0x82 ∧ (0x00 : Byte) ≠ 0x86 ∧
      (device 5 0x00 0x01 0x00 0x5E).Ready ∧ 5 ≤ (device 5 0x00 0x01 0x00 0x5E).engine.position :=
  ⟨by decide, rfl, by decide, by decide, by decide, by decide, device_ready _ _ _ _ _, by decide⟩
/-- With a poll pending, with nothing pending, and with a construction pending on a device that has not faulted. -/
theorem witness_FaultedDeviceIsStuck :
    ∃ r, (doing .poll faultedDevice).present = true ∧ (doing .poll faultedDevice).fault = some r ∧
      (doing .poll faultedDevice).pending.head? ≠ some .teardown ∧
      (∀ opens, (doing .poll faultedDevice).pending.head? ≠ some (.construct opens)) ∧
      (faultedDevice.fault = some r ∧ faultedDevice.pending.head? ≠ some .teardown ∧
        ∀ opens, faultedDevice.pending.head? ≠ some (.construct opens)) ∧
      (doing (.construct false) State.reset).present = true ∧
      (doing (.construct false) State.reset).pending = .construct false :: [] :=
  ⟨_, rfl, rfl, by decide, by decide, ⟨rfl, by decide, by decide⟩, rfl, rfl⟩
theorem witness_RefusedWithoutRoomOrDevice :
    (∃ s : State, s.Live ∧ s.params.posWidth = some 8 ∧ s.engine.position = 0xFF ∧ 2 ^ 8 ≤ s.engine.position + 1) ∧
    (∃ s : State, s.Live ∧ s.params.posWidth = some 8 ∧ s.engine.position = 0x100 ∧ 2 ^ 8 ≤ s.engine.position + 1) ∧
    absentDevice.present = false ∧ ∀ opens, Operation.poll ≠ .construct opens :=
  ⟨⟨{ device 0xFF 0x00 0x00 0x00 0x00 with params := ⟨some 8, false⟩ }, ⟨rfl, rfl⟩, rfl, rfl, by decide⟩,
    ⟨{ device 0x100 0x00 0x00 0x00 0x00 with params := ⟨some 8, false⟩ }, ⟨rfl, rfl⟩, rfl, rfl, by decide⟩, rfl, nofun⟩
/-- The flag set with the counter at its last value, the flag clear, and a faulted device. -/
theorem witness_PollReportsThenDecays :
    (∃ s : State, s.present = true ∧ s.fault = none ∧ s.latch.haveIrq = true ∧ s.latch.irqTimer = 4) ∧
    (State.reset.present = true ∧ State.reset.fault = none ∧ State.reset.latch.haveIrq = false) ∧
    (faultedDevice.present = true ∧ faultedDevice.fault = some (.continuationUndefined 0x01 5)) :=
  ⟨⟨device 0 0x00 0x00 0x00 0x00, rfl, rfl, rfl, rfl⟩, ⟨rfl, rfl, rfl⟩, rfl, rfl⟩
theorem witness_LatchDecaysAfterFivePolls :
    ∃ s : State, s.Live ∧ s.latch.haveIrq = true ∧ s.latch.irqTimer = 0 ∧ s.pending = List.replicate 6 .poll ++ [] :=
  ⟨(State.reset.withLatch ⟨true, 0, 0x02⟩).withPending (List.replicate 6 .poll), ⟨rfl, rfl⟩, rfl, rfl, rfl⟩
/-- The smallest width, with a counter at its top. -/
theorem witness_SaturatingCounterIsEquivalent :
    3 ≤ 3 ∧ saturatingPoll 3 ⟨true, 7, 0x02⟩ = ⟨false, 7, 0x02⟩ := by decide
/-- One command of each case, and one of no case. -/
theorem witness_OnlyLatchCommandsChangeTheLatch :
    ((Instr.irqarm 0xC4).wf = true ∧ ∃ t, exec (.irqarm 0xC4) (device 4 0xFF 0x00 0x00 0xC4) = .next t) ∧
    ((Instr.irqclr 0x63).wf = true ∧ ∃ t, exec (.irqclr 0x63) (device 4 0xFF 0x02 0x01 0x63) = .next t) ∧
    ((Instr.statrd 0x00 0x00 0x0F).wf = true ∧ ∃ t, exec (.statrd 0x00 0x00 0x0F) (device 6 0x82 0x00 0x00 0x0F) = .next t) ∧
    ((Instr.irqctl 0x02 0x00 0x78).wf = true ∧ ∃ t, exec (.irqctl 0x02 0x00 0x78) (device 4 0xFF 0x02 0x00 0x78) = .next t) :=
  ⟨⟨rfl, _, rfl⟩, ⟨rfl, _, rfl⟩, ⟨rfl, _, rfl⟩, ⟨by decide, _, rfl⟩⟩
theorem witness_OnlyIrqCommandsNotify :
    (∃ t, exec (.irqctl 0x02 0x00 0x78) (device 4 0xFF 0x02 0x00 0x78) = .next t) ∧
    (∃ t, exec (.cmd83 0x00 0x00 0xBC) (device 4 0x83 0x00 0x00 0xBC) = .next t) :=
  ⟨⟨_, rfl⟩, ⟨_, rfl⟩⟩
/-- Both values of `SNAPSHOT_FULL`. -/
theorem witness_RestoreWritesOnlyItsFields :
    ((device 5 0x01 0x12 0x34 0x12).Live ∧ (device 5 0x01 0x12 0x34 0x12).params.snapshotFull = false) ∧
    (∃ (s : State) (t : Snapshot) (e : SnapshotExtra), s.Live ∧ s.params.snapshotFull = true ∧ t.extra = some e) :=
  ⟨⟨⟨rfl, rfl⟩, rfl⟩, { device 5 0x01 0x12 0x34 0x12 with params := ⟨none, true⟩ },
    ⟨0, false, CmdBuffer.empty, some ⟨0x0000, 0, 0x00⟩⟩, _, ⟨rfl, rfl⟩, rfl, rfl⟩
theorem witness_StepKeepsTheStoreCanonical :
    ∃ t, (doing (.exchange 0x00) (device 4 0x02 0xAB 0x00 0xB8)).StoreCanonical ∧
      step (doing (.exchange 0x00) (device 4 0x02 0xAB 0x00 0xB8)) = .next t :=
  ⟨_, ⟨by decide, fun b h => by cases h; decide⟩, rfl⟩
/-- With an exchange at position 0, whose buffer holds nothing. -/
theorem witness_StepKeepsTheHeaderHeld :
    ∃ t, (doing (.exchange 0x5A) State.reset).HeaderHeld ∧ step (doing (.exchange 0x5A) State.reset) = .next t :=
  ⟨_, ⟨fun k _ h => absurd h (Nat.not_lt_zero k), fun t h => by simp [doing] at h⟩, rfl⟩
theorem witness_StepKeepsTheStoreDurable :
    ∃ t, (doing (.exchange 0x00) (device 4 0x02 0xAB 0x00 0xB8)).Durable ∧
      step (doing (.exchange 0x00) (device 4 0x02 0xAB 0x00 0xB8)) = .next t :=
  ⟨_, fun _ => rfl, rfl⟩
theorem witness_StepKeepsTheStatusLegal :
    ∃ t, (doing (.exchange 0x00) (device 4 0xFF 0x02 0x01 0x63)).StatusLegal ∧
      step (doing (.exchange 0x00) (device 4 0xFF 0x02 0x01 0x63)) = .next t :=
  ⟨_, ⟨rfl, .inr rfl⟩, rfl⟩
theorem witness_StepKeepsTheParameters :
    ∃ t, step (doing .poll (device 0 0x00 0x00 0x00 0x00)) = .next t ∧ t.latch ≠ (device 0 0x00 0x00 0x00 0x00).latch :=
  ⟨_, rfl, by decide⟩
/-- A poll of the counter's last value. -/
theorem witness_StepKeepsTheTimerBounded :
    ∃ t, (doing .poll (device 0 0x00 0x00 0x00 0x00)).TimerBounded ∧ step (doing .poll (device 0 0x00 0x00 0x00 0x00)) = .next t :=
  ⟨_, ⟨fun t h => by simp [doing] at h, by decide, fun _ => by decide⟩, rfl⟩
/-- A step that records the fault. -/
theorem witness_StepKeepsTheFaultExplained :
    ∃ t, (doing (.exchange 0x00) (device 5 0x01 0x00 0x00 0xB3)).FaultExplained ∧
      step (doing (.exchange 0x00) (device 5 0x01 0x00 0x00 0xB3)) = .next t ∧ t.fault ≠ none :=
  ⟨_, nofun, rfl, by decide⟩
/-- The three ways to change the offset: a dispatch of SETOFF, a teardown, and a construction after one that left an offset. -/
theorem witness_OnlySetoffWritesTheOffset :
    (∃ t, step (doing (.exchange 0x00) (device 4 0x01 0xFF 0xFF 0x22)) = .next t ∧ t.backupOffset ≠ 0x1234) ∧
    (∃ t, step (doing .teardown (device 4 0x01 0xFF 0xFF 0x22)) = .next t ∧ t.backupOffset ≠ 0x1234) ∧
    (∃ t, step (doing (.construct true) (absentDevice.withOffset 0x1234)) = .next t ∧ t.backupOffset ≠ 0x1234) ∧
    (device 4 0x01 0xFF 0xFF 0x22).params.snapshotFull = false ∧ (device 4 0x01 0xFF 0xFF 0x22).backupOffset = 0x1234 :=
  ⟨⟨_, rfl, by decide⟩, ⟨_, rfl, by decide⟩, ⟨_, rfl, by decide⟩, rfl, rfl⟩
theorem witness_OffsetInfluencesNothing : (device 4 0x02 0xAB 0x00 0xB8).params.snapshotFull = false := rfl
/-- At position 1 of a transaction, where three bytes are stale. -/
theorem witness_StaleBytesInfluenceNothing :
    (doing (.exchange 0x00) (device 1 0x03 0x00 0x00 0xCE)).pending.head? ≠ some .save ∧
      (doing (.exchange 0x00) (device 1 0x03 0x00 0x00 0xCE)).forgetStale ≠
        doing (.exchange 0x00) (device 1 0x03 0x00 0x00 0xCE) := by decide
/-- L1-3 and program P2. -/
theorem witness_StoreRoundTripReturnsTheByte :
    ∃ s : State, s.Live ∧ s.params.posWidth = none ∧
      s.pending = commandOps 0x01 0x12 0x34 0x12 0x00 ++ commandOps 0x02 0xAB 0x00 0xB8 0x00 ++
        commandOps 0x01 0x12 0x34 0x12 0x00 ++ commandOps 0x03 0x00 0x00 0xCE 0x00 ++ .exchange 0x00 :: [] :=
  ⟨State.reset.withPending (commandOps 0x01 0x12 0x34 0x12 0x00 ++ commandOps 0x02 0xAB 0x00 0xB8 0x00 ++
      commandOps 0x01 0x12 0x34 0x12 0x00 ++ commandOps 0x03 0x00 0x00 0xCE 0x00 ++ [.exchange 0x00]), ⟨rfl, rfl⟩, rfl, rfl⟩

end Sys2Proof.Tests
end

section
/-! PROOFS of the engine's statements (spec/40_engine.md): the command buffer and the header an exchange reads from it, the
step of a pending exchange, the identification read, and the checksum as a fold. -/

namespace Sys2Proof.Machine

/-! ### The command buffer and the header read from it (R17, R66, R68) -/

theorem CmdBuffer.get_set_of_ne (b : CmdBuffer) {k p : Nat} (v : Byte) (h : k ≠ p) : (b.set p v).get k = b.get k := by
  unfold CmdBuffer.set CmdBuffer.get
  split <;> grind

/-- A buffer whose first three bytes hold values holds a whole header once the fourth is written. -/
theorem CmdBuffer.set_three_eq {cmd : CmdBuffer} {o a b : Byte} (c : Byte) (h0 : cmd.get 0 = some o)
    (h1 : cmd.get 1 = some a) (h2 : cmd.get 2 = some b) : cmd.set 3 c = ofHeader o a b c := by
  obtain ⟨b0, b1, b2, b3⟩ := cmd
  cases h0; cases h1; cases h2; rfl

/-- Capturing leaves every byte but the one at the current position. -/
theorem capture_get_of_ne (x : Byte) {s : State} {k : Nat} {v : Byte} (h : s.engine.cmd.get k = some v)
    (hk : k ≠ s.engine.position) : (capture x s).engine.cmd.get k = some v := by
  rw [capture_engine]
  by_cases hp : s.engine.position < 4
  · rw [if_pos hp, CmdBuffer.get_set_of_ne _ _ hk, h]
  · rw [if_neg hp, h]

theorem capture_ready (x : Byte) {s : State} (h : s.Ready) : (capture x s).Ready := by
  rw [capture_eq]; exact h

theorem headerByte_of_get {s : State} {k : Nat} {v : Byte} (h : s.engine.cmd.get k = some v) : headerByte s k = v := by
  simp [headerByte, h]

theorem captured_iff {s : State} {n : Nat} : captured s n = true ↔ ∀ k < n, (s.engine.cmd.get k).isSome = true := by
  simp [captured]

theorem captured_two {s : State} {o a : Byte} (h0 : s.engine.cmd.get 0 = some o) (h1 : s.engine.cmd.get 1 = some a) :
    captured s 2 = true :=
  captured_iff.2 fun k hk => by interval_cases k <;> simp [h0, h1]

/-- The identification condition of R68, in a buffer whose first two bytes hold values. -/
theorem idSelected_iff {s : State} {o a : Byte} (h0 : s.engine.cmd.get 0 = some o) (h1 : s.engine.cmd.get 1 = some a) :
    idSelected s = true ↔ o = 0x00 ∧ a = 0x00 := by
  simp [idSelected, headerByte_of_get h0, headerByte_of_get h1]

/-- An identification read draws nothing, whatever `cmd[2]` and `cmd[3]` hold (R68). -/
theorem afterHeader_of_idSelected {s : State} (hid : idSelected s = true) (hc : captured s 2 = true) :
    afterHeader (headerRead s) s = s := by
  rw [headerRead, if_pos hid, afterHeader_of_captured hc]

section WholeHeader
variable {s : State} {o a b c : Byte} (h : s.engine.cmd = CmdBuffer.ofHeader o a b c)
include h

theorem fetchCommand_of_cmd : fetchCommand s = decodeHeader o a b c := by
  simp [fetchCommand, headerByte, h, CmdBuffer.ofHeader, CmdBuffer.get]

theorem afterHeader_of_cmd : afterHeader (headerRead s) s = s :=
  afterHeader_headerRead (captured_iff.2 fun k hk => by rw [h]; interval_cases k <;> rfl)

end WholeHeader

/-! ### The step of a pending exchange (R65) -/

/-- A step of a ready device with an exchange pending is steps 2 to 7 of R65 after the capture of step 1. -/
theorem step_exchange {s : State} {x : Byte} {rest : List Operation} (hr : s.Ready)
    (hpend : s.pending = .exchange x :: rest) : step s = exchangeBody (capture x (s.withPending rest)) :=
  (step_cons hpend).trans (whileReady _ hr)

theorem exchangeBody_of_lt_two {s : State} (hp : s.engine.position < 2) : exchangeBody s = .next (s.answered 0xFF) :=
  if_pos hp

theorem exchangeBody_of_eq_two {s : State} (hp : s.engine.position = 2) (hc : captured s 2 = true) :
    exchangeBody s = .next (s.answered (if idSelected s then idByte 2 else 0xFF)) := by
  simp only [exchangeBody, hp, Nat.lt_irrefl, if_false, if_true, afterHeader_of_captured hc]
  split
  · rw [answerId, hp, answer_eq]
  · rw [answer_eq]

theorem exchangeBody_of_three_le {s : State} (hp : 3 ≤ s.engine.position) :
    exchangeBody s = exec (fetchCommand s) (afterHeader (headerRead s) s) := by
  rw [exchangeBody, if_neg (by omega), if_neg (by omega)]

/-- The frame of an exchange that captures `x` and answers `out`, written out field by field (R66, R75). -/
theorem capture_answered (x out : Byte) (rest : List Operation) (s : State) :
    (capture x (s.withPending rest)).answered out =
      { s with
        engine := ⟨s.engine.position + 1,
          if s.engine.position < 4 then s.engine.cmd.set s.engine.position x else s.engine.cmd⟩
        pending := rest
        replies := s.replies ++ [Reply.byte out] } := by
  rw [capture_eq, capture_engine]; rfl

/-- The same, at a position whose byte is captured. -/
theorem capture_answered_of_lt {s : State} (x out : Byte) (rest : List Operation) (hp : s.engine.position < 4) :
    (capture x (s.withPending rest)).answered out =
      { s with
        engine := ⟨s.engine.position + 1, s.engine.cmd.set s.engine.position x⟩
        pending := rest
        replies := s.replies ++ [Reply.byte out] } := by
  rw [capture_answered, if_pos hp]

/-- Settles O9: at positions 0 and 1 no header byte is read; at 2 the first two bytes hold values, so nothing is drawn, and
they are not both zero, so the answer is the gap's. -/
theorem gapCapturesAndAnswersFF : Obligations.GapCapturesAndAnswersFF := by
  intro s x o a rest hr hpend hgap
  rw [step_exchange hr hpend]
  have hpos := capture_position x (s.withPending rest)
  obtain hp | ⟨hp, h0, h1, hoa⟩ := hgap
  · rw [exchangeBody_of_lt_two (hpos.trans_lt hp), capture_answered_of_lt _ _ _ (by omega)]
  · have h0' := capture_get_of_ne x (s := s.withPending rest) h0 (show 0 ≠ s.engine.position by omega)
    have h1' := capture_get_of_ne x (s := s.withPending rest) h1 (show 1 ≠ s.engine.position by omega)
    rw [exchangeBody_of_eq_two (hpos.trans hp) (captured_two h0' h1'), if_neg (mt (idSelected_iff h0' h1').1 hoa),
      capture_answered_of_lt _ _ _ (by omega)]

/-! ### The identification read (R68) -/

theorem idByte_eq (p : Nat) : idByte p = ([0x06, 0x04, 0x10, 0x00] : List Byte).getD ((p - 2) % 4) 0x00 := by
  have hk : (p - 2) % 4 < 4 := Nat.mod_lt _ (by decide)
  unfold idByte
  generalize (p - 2) % 4 = k at hk
  interval_cases k <;> rfl

theorem execIdread_of_two_le {s : State} (b c : Byte) (hr : s.Ready) (hp : 2 ≤ s.engine.position) :
    execIdread b c s = .next (s.answered (idByte s.engine.position)) :=
  (whileReady _ hr).trans (if_neg (by omega))

/-- With the identification condition met, an exchange from position 2 on answers the identification byte: at 2 in step 2 of
R65, from 3 on through IDREAD. -/
theorem exchangeBody_of_idSelected {s : State} (hr : s.Ready) (hp : 2 ≤ s.engine.position) (hid : idSelected s = true)
    (hc : captured s 2 = true) : exchangeBody s = .next (s.answered (idByte s.engine.position)) := by
  obtain hp2 | hp3 : s.engine.position = 2 ∨ 3 ≤ s.engine.position := by omega
  · rw [exchangeBody_of_eq_two hp2 hc, if_pos hid, hp2]
  · rw [exchangeBody_of_three_le hp3, afterHeader_of_idSelected hid hc, fetchCommand_of_idSelected hid]
    exact execIdread_of_two_le (headerByte s 2) (headerByte s 3) hr hp

/-- Settles O10: the capture from position 2 on leaves the two zero bytes, so the identification condition holds after it. -/
theorem identificationReadAtEveryPosition : Obligations.IdentificationReadAtEveryPosition := by
  intro s x rest hr hpend hp h0 h1
  have h0' := capture_get_of_ne x (s := s.withPending rest) h0 (show 0 ≠ s.engine.position by omega)
  have h1' := capture_get_of_ne x (s := s.withPending rest) h1 (show 1 ≠ s.engine.position by omega)
  have hpos : (capture x (s.withPending rest)).engine.position = s.engine.position := capture_position _ _
  rw [step_exchange hr hpend, exchangeBody_of_idSelected (capture_ready x (s := s.withPending rest) hr) (hp.trans hpos.ge)
    ((idSelected_iff h0' h1').2 ⟨rfl, rfl⟩) (captured_two h0' h1'), hpos, idByte_eq, capture_answered]

/-! ### The header check of position 3 (R69) -/

/-- Every command but IDREAD runs by position, with its own header (R65, R77). -/
theorem exec_eq_runCommand {i : Instr} {o a b c : Byte} (he : encode i = [o, a, b, c]) (hi : ∀ x y, i ≠ .idread x y) :
    ∃ d k : State → Result, ∀ s, exec i s = runCommand o a b c d k s := by
  cases i with
  | idread x y => exact absurd rfl (hi x y)
  | setoff | bkwr | bkrd | cmd05 | statrd | cmd83 | cmd86 | cmd87 | irqarm | irqclr | irqctl | unknown =>
    cases he; exact ⟨_, _, fun _ => rfl⟩

theorem decodeHeader_ne_idread {o a : Byte} (b c : Byte) (h : ¬(o = 0x00 ∧ a = 0x00)) (x y : Byte) :
    decodeHeader o a b c ≠ .idread x y := by
  intro hd
  have he := encode_decodeHeader o a b c
  rw [hd] at he
  cases he
  exact h ⟨rfl, rfl⟩

/-- At position 3 every command but IDREAD only checks its header. -/
theorem exec_decodeHeader_at_three {s : State} {o a : Byte} (b c : Byte) (hr : s.Ready) (hp : s.engine.position = 3)
    (hoa : ¬(o = 0x00 ∧ a = 0x00)) :
    exec (decodeHeader o a b c) s = .next ((checkHeader o a b c s).answered 0xFF) := by
  obtain ⟨d, k, hrun⟩ := exec_eq_runCommand (encode_decodeHeader o a b c) (decodeHeader_ne_idread b c hoa)
  rw [hrun, runCommand_of_ready _ _ _ _ _ _ hr, if_neg (by omega), if_pos hp, answer_eq]

/-- The check appends the events of R69 and writes nothing else. -/
theorem checkHeader_eq (o a b c : Byte) (s : State) :
    checkHeader o a b c s = { s with events := s.events ++ checkEvents o a b c } := by
  unfold checkHeader checkEvents
  split
  · simp
  · rfl

/-- Settles O12: after the capture the buffer holds a whole header, which reads as a command other than IDREAD; at position 3
every such command only checks the header. -/
theorem positionThreeOnlyChecksTheHeader : Obligations.PositionThreeOnlyChecksTheHeader := by
  intro s o a b c rest hr hp hpend h0 h1 h2 hoa
  have hcap : capture c (s.withPending rest) = (s.withPending rest).withCmd (CmdBuffer.ofHeader o a b c) := by
    rw [capture_eq, capture_engine, State.withPending_engine, hp, if_pos (by decide), CmdBuffer.set_three_eq c h0 h1 h2]
  have hcmd : (capture c (s.withPending rest)).engine.cmd = CmdBuffer.ofHeader o a b c := by rw [hcap]; rfl
  have hpos : (capture c (s.withPending rest)).engine.position = 3 := (capture_position _ _).trans hp
  rw [step_exchange hr hpend, exchangeBody_of_three_le hpos.ge, afterHeader_of_cmd hcmd, fetchCommand_of_cmd hcmd,
    exec_decodeHeader_at_three b c (capture_ready c (s := s.withPending rest) hr) hpos hoa, checkHeader_eq, hcap]
  simp [State.answered, hp, checkEvents, CmdBuffer.ofHeader, State.withCmd, State.withPending]

/-! ### The checksum (R70) -/

/-- Iteration `i` of R70's loop: bit `31 - i` is tested, and the register is the polynomial shifted right by `i`. -/
def checksumRound (w : Word) (i : Nat) : Word := if w.getLsbD (31 - i) then w ^^^ (csPolyInit >>> i) else w

theorem csMaskInit_ushiftRight {i : Nat} (hi : i < 32) : csMaskInit >>> i = BitVec.twoPow 32 (31 - i) := by
  interval_cases i <;> rfl

/-- The mask of iteration `i` selects bit `31 - i`. -/
theorem and_csMaskInit_ushiftRight_eq_zero (w : Word) {i : Nat} (hi : i < 32) :
    w &&& (csMaskInit >>> i) = 0 ↔ w.getLsbD (31 - i) = false := by
  rw [csMaskInit_ushiftRight hi, BitVec.and_twoPow]
  cases w.getLsbD (31 - i) with
  | false => simp
  | true => simp [← BitVec.toNat_inj, BitVec.toNat_twoPow_of_lt (show 31 - i < 32 by omega)]

/-- The loop entered at iteration `i` is the fold of the rounds from `i` on, while the mask is not shifted out. -/
theorem checksumLoop_eq_foldl (n : Nat) : ∀ (i : Nat) (w : Word), i + n ≤ 32 →
    checksumLoop n w (csMaskInit >>> i) (csPolyInit >>> i) = (List.range' i n).foldl checksumRound w := by
  induction n with
  | zero => intro i w _; rfl
  | succ n ih =>
    intro i w hi
    have hround : (if w &&& (csMaskInit >>> i) = 0 then w else w ^^^ (csPolyInit >>> i)) = checksumRound w i := by
      simp only [and_csMaskInit_ushiftRight_eq_zero w (show i < 32 by omega), checksumRound]
      cases w.getLsbD (31 - i) <;> rfl
    rw [checksumLoop, hround, ← BitVec.shiftRight_add, ← BitVec.shiftRight_add, ih (i + 1) _ (by omega), List.range'_succ,
      List.foldl_cons]

theorem checksumWord_eq_ofNat (b0 b1 b2 : Byte) :
    checksumWord b0 b1 b2 = BitVec.ofNat 32 (b0.toNat * 2 ^ 24 + b1.toNat * 2 ^ 16 + b2.toNat * 2 ^ 8) := by
  have h0 := b0.isLt
  have h1 := b1.isLt
  have h2 := b2.isLt
  have hor1 := Nat.shiftLeft_add_eq_or_of_lt (show b1.toNat * 2 ^ 16 < 2 ^ 24 by omega) b0.toNat
  have hor2 := Nat.shiftLeft_add_eq_or_of_lt (show b2.toNat * 2 ^ 8 < 2 ^ 16 by omega) (b0.toNat * 2 ^ 8 + b1.toNat)
  simp only [Nat.shiftLeft_eq] at hor1 hor2
  apply BitVec.eq_of_toNat_eq
  simp (disch := omega) only [checksumWord, BitVec.toNat_or, BitVec.toNat_shiftLeft, BitVec.toNat_setWidth,
    BitVec.toNat_ofNat, Nat.shiftLeft_eq, Nat.mod_eq_of_lt]
  have hhigh : b0.toNat * 2 ^ 24 + b1.toNat * 2 ^ 16 = (b0.toNat * 2 ^ 8 + b1.toNat) * 2 ^ 16 := by ring
  rw [← hor1, hhigh, ← hor2]

/-- Settles O18: the loop entered at iteration 0 is the fold over the 24 rounds. -/
theorem checksumIsTheTwentyFourStepReduction : Obligations.ChecksumIsTheTwentyFourStepReduction := by
  intro b0 b1 b2
  have hloop := checksumLoop_eq_foldl 24 0 (checksumWord b0 b1 b2) (by decide)
  rw [BitVec.ushiftRight_zero, BitVec.ushiftRight_zero, ← List.range_eq_range', checksumWord_eq_ofNat] at hloop
  rw [checksum, checksumFinal, checksumWord_eq_ofNat, hloop, ← BitVec.setWidth_eq_extractLsb' (by decide)]
  rfl

end Sys2Proof.Machine
end

section
/-! PROOFS of the commands' statements (spec/41_commands.md): a command's exchange at dispatch and above it, and the commands
that only answer or log at dispatch. -/

namespace Sys2Proof.Machine

/-! ### A command's exchange at dispatch and above it (R65) -/

theorem runCommand_of_eq_four {s : State} (o a b c : Byte) (d k : State → Result) (hr : s.Ready)
    (hp : s.engine.position = 4) : runCommand o a b c d k s = d s := by
  rw [runCommand_of_ready o a b c d k hr, if_neg (by omega), if_neg (by omega), if_pos hp]

theorem runCommand_of_five_le {s : State} (o a b c : Byte) (d k : State → Result) (hr : s.Ready)
    (hp : 5 ≤ s.engine.position) : runCommand o a b c d k s = k s := by
  rw [runCommand_of_ready o a b c d k hr, if_neg (by omega), if_neg (by omega), if_neg (by omega)]

/-- Logging appends one event to what an answered exchange writes. -/
theorem logAndAnswer_eq (o a b : Byte) (s : State) :
    logAndAnswer o a b s =
      .next ({ s with events := s.events ++ [Event.diag (.commandLog o a b)] }.answered 0x04) := rfl

/-! ### The commands by position (R83, R84, R86, R87, R89, R90) -/

theorem exec_bkrd (a b c : Byte) (s : State) :
    exec (.bkrd a b c) s = runCommand 0x03 a b c (answer 0x01) bkrdContinuation s := rfl

theorem exec_statrd (a b c : Byte) (s : State) :
    exec (.statrd a b c) s = runCommand 0x82 a b c (logAndAnswer 0x82 a b) statrdContinuation s := rfl

theorem exec_cmd86 (a b c : Byte) (s : State) :
    exec (.cmd86 a b c) s = runCommand 0x86 a b c (logAndAnswer 0x86 a b) (answer 0x00) s := rfl

/-- Settles O26: BKRD's dispatch is the bare answer. -/
theorem bkrdAcknowledges : Obligations.BkrdAcknowledges := by
  intro a b c s hr hp
  rw [exec_bkrd, runCommand_of_eq_four _ _ _ _ _ _ hr hp, answer_eq]

/-- Settles O30: STATRD's dispatch only logs and answers. -/
theorem statrdLogsAtDispatch : Obligations.StatrdLogsAtDispatch := by
  intro a b c s hr hp
  rw [exec_statrd, runCommand_of_eq_four _ _ _ _ _ _ hr hp, logAndAnswer_eq]

/-- Settles O33: CMD86's dispatch only logs and answers. -/
theorem cmdEightySixLogsAtDispatch : Obligations.CmdEightySixLogsAtDispatch := by
  intro a b c s hr hp
  rw [exec_cmd86, runCommand_of_eq_four _ _ _ _ _ _ hr hp, logAndAnswer_eq]

/-- Settles O34: CMD86's continuation is the bare answer at every position. -/
theorem cmdEightySixContinuesWithZero : Obligations.CmdEightySixContinuesWithZero := by
  intro a b c s hr hp
  rw [exec_cmd86, runCommand_of_five_le _ _ _ _ _ _ hr hp, answer_eq]

end Sys2Proof.Machine
end

section
/-! PROOFS of the encoding's statements (spec/30_encoding.md): the decoder against the encoder, the frame word byte by byte, and
the decoder against the opcode table. -/

namespace Sys2Proof

/-! ### The decoder and the encoder (R55 to R57) -/

/-- A well-formed command is read back from its header. -/
theorem decodeHeader_of_encode {i : Instr} {o a b c : Byte} (hwf : i.wf = true) (he : encode i = [o, a, b, c]) :
    decodeHeader o a b c = i := by
  cases i with
  | irqctl a' b' c' =>
    cases he
    simp only [Instr.wf, namedSelector, Bool.not_eq_true', Bool.or_eq_false_iff, Bool.and_eq_false_iff,
      beq_eq_false_iff_ne, BitVec.ofNat_eq_ofNat] at hwf
    obtain ⟨harm, hclear⟩ := hwf
    rw [← not_and_or] at harm hclear
    simp [decodeHeader, harm, hclear]
  | unknown o' a' b' c' =>
    cases he
    obtain ⟨h0, h1, h2, h3, h5, h82, h83, h86, h87, hff⟩ := not_recognised (o := o) (a := a) (by simpa [Instr.wf] using hwf)
    simp only [decodeHeader, not_and_or.2 h0, h1, h2, h3, h5, h82, h83, h86, h87, hff, if_false]
  | idread | setoff | bkwr | bkrd | cmd05 | statrd | cmd83 | cmd86 | cmd87 | irqarm | irqclr =>
    cases he; simp [decodeHeader]

/-- The decoder makes only well-formed commands. -/
theorem decodeHeader_wf (o a b c : Byte) : (decodeHeader o a b c).wf = true := by
  apply decodeHeader_elim (P := fun i => i.wf = true)
  case irqctl => intro _ hsel; simp [Instr.wf, hsel]
  case unknown => intro hrec; simp [Instr.wf, hrec]
  all_goals intros; rfl

/-- A command's header is four bytes. -/
theorem exists_encode_eq (i : Instr) : ∃ o a b c, encode i = [o, a, b, c] := by
  cases i <;> exact ⟨_, _, _, _, rfl⟩

/-- Settles O1: the encoder writes four bytes, which read back as the command. -/
theorem decodeOfEncodeIsTheCommand : Obligations.DecodeOfEncodeIsTheCommand := by
  intro i rest hwf
  obtain ⟨o, a, b, c, he⟩ := exists_encode_eq i
  simp [he, decode, decodeHeader_of_encode hwf he]

/-- Settles O2: the command is the one the decoder reads. -/
theorem encodeOfDecodeIsTheHeader : Obligations.EncodeOfDecodeIsTheHeader := fun o a b c _ =>
  ⟨decodeHeader o a b c, rfl, encode_decodeHeader o a b c, decodeHeader_wf o a b c⟩

/-! ### The frame word (R52) -/

theorem frameWord_getLsbD (o a b c : Byte) (i : Nat) :
    (frameWord o a b c).getLsbD i =
      if i < 8 then c.getLsbD i else if i < 16 then b.getLsbD (i - 8) else if i < 24 then a.getLsbD (i - 16)
      else o.getLsbD (i - 24) := by
  simp only [frameWord, BitVec.getLsbD_or, BitVec.getLsbD_shiftLeft, BitVec.getLsbD_setWidth]
  grind

/-- Bitwise operations on frame words are those on their bytes. -/
theorem frameWord_and (o a b c o' a' b' c' : Byte) :
    frameWord o a b c &&& frameWord o' a' b' c' = frameWord (o &&& o') (a &&& a') (b &&& b') (c &&& c') := by
  apply BitVec.eq_of_getLsbD_eq
  intro i _
  simp only [BitVec.getLsbD_and, frameWord_getLsbD]
  split_ifs <;> rfl

theorem frameWord_xor (o a b c o' a' b' c' : Byte) :
    frameWord (o ^^^ o') (a ^^^ a') (b ^^^ b') (c ^^^ c') = frameWord o a b c ^^^ frameWord o' a' b' c' := by
  apply BitVec.eq_of_getLsbD_eq
  intro i _
  simp only [BitVec.getLsbD_xor, frameWord_getLsbD]
  split_ifs <;> rfl

theorem frameBytes_frameWord (o a b c : Byte) : frameBytes (frameWord o a b c) = [o, a, b, c] := by
  simp only [frameBytes, List.cons.injEq, and_true]
  refine ⟨?_, ?_, ?_, ?_⟩ <;> ext i hi <;> simp [frameWord_getLsbD, hi] <;> grind

/-- A frame word is known by its bytes. -/
theorem frameWord_inj {o a b c o' a' b' c' : Byte} :
    frameWord o a b c = frameWord o' a' b' c' ↔ o = o' ∧ a = a' ∧ b = b' ∧ c = c' := by
  refine ⟨fun h => ?_, fun ⟨ho, ha, hb, hc⟩ => by rw [ho, ha, hb, hc]⟩
  have hbytes := congrArg frameBytes h
  simpa only [frameBytes_frameWord, List.cons.injEq, and_true] using hbytes

/-! ### The opcode table (R55) -/

/-- The rows of the table with their masks and patterns written as header bytes. -/
theorem tableRows_eq :
    tableRows =
      [⟨"IDREAD", frameWord 0xFF 0xFF 0x00 0x00, frameWord 0x00 0x00 0x00 0x00⟩,
       ⟨"SETOFF", frameWord 0xFF 0x00 0x00 0x00, frameWord 0x01 0x00 0x00 0x00⟩,
       ⟨"BKWR", frameWord 0xFF 0x00 0x00 0x00, frameWord 0x02 0x00 0x00 0x00⟩,
       ⟨"BKRD", frameWord 0xFF 0x00 0x00 0x00, frameWord 0x03 0x00 0x00 0x00⟩,
       ⟨"CMD05", frameWord 0xFF 0x00 0x00 0x00, frameWord 0x05 0x00 0x00 0x00⟩,
       ⟨"STATRD", frameWord 0xFF 0x00 0x00 0x00, frameWord 0x82 0x00 0x00 0x00⟩,
       ⟨"CMD83", frameWord 0xFF 0x00 0x00 0x00, frameWord 0x83 0x00 0x00 0x00⟩,
       ⟨"CMD86", frameWord 0xFF 0x00 0x00 0x00, frameWord 0x86 0x00 0x00 0x00⟩,
       ⟨"CMD87", frameWord 0xFF 0x00 0x00 0x00, frameWord 0x87 0x00 0x00 0x00⟩,
       ⟨"IRQARM", frameWord 0xFF 0xFF 0xFF 0x00, frameWord 0xFF 0x00 0x00 0x00⟩,
       ⟨"IRQCLR", frameWord 0xFF 0xFF 0xFF 0x00, frameWord 0xFF 0x02 0x01 0x00⟩,
       ⟨"IRQCTL", frameWord 0xFF 0x00 0x00 0x00, frameWord 0xFF 0x00 0x00 0x00⟩,
       ⟨"UNKNOWN", frameWord 0x00 0x00 0x00 0x00, frameWord 0x00 0x00 0x00 0x00⟩] := rfl

/-- A whole byte under a mask. -/
theorem byte_and_ones (x : Byte) : x &&& 0xFF#8 = x := BitVec.and_allOnes

/-- A row fits a header when each byte under the row's mask is the row's byte. -/
theorem frameWord_fits (o a b c mo ma mb mc po pa pb pc : Byte) :
    (frameWord o a b c &&& frameWord mo ma mb mc == frameWord po pa pb pc) =
      (o &&& mo == po && (a &&& ma == pa && (b &&& mb == pb && c &&& mc == pc))) := by
  rw [frameWord_and, Bool.eq_iff_iff]
  simp only [beq_iff_eq, frameWord_inj, Bool.and_eq_true]

/-- Settles O3: in each case of the decoder's split no row before the command's fits, and its own row does. -/
theorem decodeSelectsTheFirstMatchingRow : Obligations.DecodeSelectsTheFirstMatchingRow := by
  intro o a b c
  apply decodeHeader_elim (P := fun i => firstRow (frameWord o a b c) = some i.mnemonic)
  case irqctl =>
    intro ho hsel
    simp only [namedSelector, Bool.or_eq_false_iff, BitVec.ofNat_eq_ofNat] at hsel
    simp [firstRow, tableRows_eq, frameWord_fits, byte_and_ones, ho, hsel, Instr.mnemonic]
  case unknown =>
    intro hrec
    simp only [recognised, Bool.or_eq_false_iff, BitVec.ofNat_eq_ofNat] at hrec
    simp [firstRow, tableRows_eq, frameWord_fits, byte_and_ones, hrec, Instr.mnemonic]
  all_goals
    intros
    subst_vars
    simp [firstRow, tableRows_eq, frameWord_fits, byte_and_ones, Instr.mnemonic]

/-- Settles O4: the decoder evaluated on each word; three bytes are refused by its second equation. -/
theorem decodesTheSpecsFrameWords : Obligations.DecodesTheSpecsFrameWords :=
  ⟨by decide, by decide, by decide, by decide, by decide, by decide, by decide, by decide, fun _ _ _ => rfl⟩

end Sys2Proof
end

section
/-! PROOFS of the invariants (spec/10_state.md, spec/20_memory.md, spec/60_exceptions.md): what an operation can do to each
part of the state, said once for each part, and what every step keeps. -/

namespace Sys2Proof.Machine

/-! ### From operations to steps -/

/-- What every operation keeps, its place in the pending list known, every step keeps. -/
theorem step_keeps {P : State → Prop}
    (hop : ∀ {op rest s t}, s.pending = op :: rest → P s → Operated op (s.withPending rest) t → P t)
    {s t : State} (hs : P s) (h : step s = .next t) : P t := by
  obtain ⟨_, _, rfl⟩ | ⟨op, rest, hl, ho⟩ := step_next h
  · exact hs
  · exact hop hl hs ho

/-- An exchange prepares the state, and then the command in the buffer answers or faults. -/
theorem Operated.exchange {x : Byte} {s t : State} (h : Operated (.exchange x) s t) :
    s.Ready ∧ ∃ u, Prepared x s u ∧
      (CommandAnswers (fetchCommand (capture x s)) u t ∨ CommandFaults (fetchCommand (capture x s)) u t) := by
  cases h with
  | header _ _ u b hr hp hu =>
    exact ⟨hr, u, hu, .inl ⟨u, b, .nothing _ u (.inl (by rw [hu.position]; omega)), rfl⟩⟩
  | command _ _ u v b hr hp hu he => exact ⟨hr, u, hu, .inl ⟨v, b, he, rfl⟩⟩
  | faulted _ _ u _ hr hu hf => exact ⟨hr, u, hu, .inr hf⟩

/-- Preparing an exchange writes the command buffer and the count of free values. -/
theorem Prepared.frame {x : Byte} {s u : State} (h : Prepared x s u) :
    u.backupOffset = s.backupOffset ∧ u.latch = s.latch ∧ u.fault = s.fault ∧ u.store = s.store ∧
      u.events = s.events ∧ u.file = s.file ∧ u.present = s.present ∧ u.params = s.params ∧ u.pending = s.pending ∧
      u.replies = s.replies := by
  rw [h.eq]; exact ⟨rfl, rfl, rfl, rfl, rfl, rfl, rfl, rfl, rfl, rfl⟩

theorem Prepared.engine {x : Byte} {s u : State} (h : Prepared x s u) : u.engine = (capture x s).engine := by
  obtain ⟨n, rfl⟩ := h; rfl

/-! ### The parameters and the pending operations -/

theorem Operated.params_pending {op : Operation} {s t : State} (h : Operated op s t) :
    t.params = s.params ∧ t.pending = s.pending := by
  cases op with
  | exchange x =>
    obtain ⟨_, u, hu, hu'⟩ := h.exchange
    obtain ⟨_, _, _, _, _, _, _, hparams, hpending, _⟩ := hu.frame
    rw [← hparams, ← hpending]
    obtain ⟨v, b, he, rfl⟩ | ⟨_, _, _, _, _, _, _, rfl⟩ := hu'
    · obtain ⟨_, _, _, hparams, hpending, _⟩ := he.frame
      exact ⟨hparams, hpending⟩
    · exact ⟨rfl, rfl⟩
  | chipSelect asserted => cases h; split <;> exact ⟨rfl, rfl⟩
  | poll | save | restore | teardown | construct => cases h <;> exact ⟨rfl, rfl⟩

/-- Settles O56: no operation writes the parameters. -/
theorem stepKeepsTheParameters : Obligations.StepKeepsTheParameters := fun s _ h =>
  step_keeps (P := fun u => u.params = s.params) (fun _ hs ho => ho.params_pending.1.trans hs) rfl h

/-! ### The store and its file (R36, R40, R123, R124) -/

/-- The store's contents, its file and the lifecycle: kept, written and flushed, closed, or opened. -/
theorem Operated.store {op : Operation} {s t : State} (h : Operated op s t) :
    (t.store.blob = s.store.blob ∧ t.file = s.file ∧ t.present = s.present) ∨
    (∃ k v, t.store.blob = s.store.blob.write k v ∧ t.file = some t.store.blob) ∨
    (t.store.blob = Blob.empty ∧ t.present = false ∧ (t.file = s.file ∨ t.file = some s.store.blob)) ∨
    (t.store.blob = s.file.getD Blob.empty ∧ t.file = some t.store.blob) := by
  cases op with
  | exchange x =>
    obtain ⟨_, u, hu, hu'⟩ := h.exchange
    obtain ⟨_, _, _, hstore, _, hfile, hpresent, _⟩ := hu.frame
    rw [← hstore, ← hfile, ← hpresent]
    obtain ⟨v, b, he, rfl⟩ | ⟨_, _, _, _, _, _, _, rfl⟩ := hu'
    · obtain ⟨_, _, hpresent, _⟩ := he.frame
      obtain ⟨hb, hf⟩ | ⟨_, a, _, _, k, _, _, hs, hf⟩ := he.store
      · exact .inl ⟨hb, hf, hpresent⟩
      · exact .inr (.inl ⟨k, a, by simp [hs], by simp [hs, hf]⟩)
    · exact .inl ⟨rfl, rfl, rfl⟩
  | chipSelect asserted => cases h; exact .inl (by split <;> exact ⟨rfl, rfl, rfl⟩)
  | poll | save | restore => cases h <;> exact .inl ⟨rfl, rfl, rfl⟩
  | teardown =>
    cases h
    refine .inr (.inr (.inl ⟨rfl, rfl, ?_⟩))
    cases hf : s.fault <;> simp [freshDevice, storeFlush]
  | construct opens =>
    cases h
    · exact .inr (.inr (.inr ⟨rfl, rfl⟩))
    · exact .inl ⟨rfl, rfl, rfl⟩

/-- Settles O49: a write keeps the canonical form, and the contents pass between store and file unchanged. -/
theorem stepKeepsTheStoreCanonical : Obligations.StepKeepsTheStoreCanonical := by
  intro s t
  refine step_keeps (P := State.StoreCanonical) fun {op rest s t} _ ⟨hblob, hfile⟩ ho => ?_
  obtain ⟨hb, hf, _⟩ | ⟨k, v, hb, hf⟩ | ⟨hb, _, hf⟩ | ⟨hb, hf⟩ := ho.store
  · exact ⟨hb ▸ hblob, hf ▸ hfile⟩
  · have hwf : t.store.blob.wf = true := hb ▸ Blob.write_wf k v hblob
    exact ⟨hwf, by simpa [hf] using hwf⟩
  · refine ⟨hb ▸ Blob.empty_wf, ?_⟩
    obtain hf | hf := hf
    · exact hf ▸ hfile
    · simpa [hf] using hblob
  · have hwf : t.store.blob.wf = true := by
      rw [hb]
      cases hs : s.file with
      | none => simpa [hs] using Blob.empty_wf
      | some m => simpa [hs] using hfile m hs
    exact ⟨hwf, by simpa [hf] using hwf⟩

/-- Settles O51: only a write changes the contents of a constructed device's store, and it is flushed. -/
theorem stepKeepsTheStoreDurable : Obligations.StepKeepsTheStoreDurable := by
  intro s t
  refine step_keeps (P := State.Durable) fun {op rest s t} _ hs ho hp => ?_
  obtain ⟨hb, hf, hq⟩ | ⟨_, _, _, hf⟩ | ⟨_, hq, _⟩ | ⟨_, hf⟩ := ho.store
  · rw [hf, hb]; exact hs (hq ▸ hp)
  · exact hf
  · simp [hq] at hp
  · exact hf

/-! ### The header held (R18) -/

theorem CmdBuffer.get_set_same (b : CmdBuffer) {k : Nat} (v : Byte) (hk : k < 4) : (b.set k v).get k = some v := by
  interval_cases k <;> rfl

/-- Capturing at the position keeps the passed bytes held, and holds the byte of the position itself. -/
theorem headerHeld_capture (x : Byte) {s : State} (h : headerHeld s.engine.position s.engine.cmd) :
    headerHeld (s.engine.position + 1) (capture x s).engine.cmd := by
  intro k hk hkp
  by_cases hks : k = s.engine.position
  · rw [capture_engine, ← hks, if_pos hk, CmdBuffer.get_set_same _ _ hk]; rfl
  · obtain ⟨v, hv⟩ := Option.isSome_iff_exists.1 (h k hk (by omega))
    rw [capture_get_of_ne x hv hks]; rfl

theorem headerHeld_mono {p q : Nat} {cmd : CmdBuffer} (h : headerHeld q cmd) (hpq : p ≤ q) : headerHeld p cmd :=
  fun k hk hkp => h k hk (by omega)

theorem headerHeld_zero (cmd : CmdBuffer) : headerHeld 0 cmd := fun k _ hk => absurd hk (Nat.not_lt_zero k)

/-- An operation keeps the header held, where the snapshot it restores has it. -/
theorem Operated.headerHeld {op : Operation} {s t : State} (h : Operated op s t)
    (hs : headerHeld s.engine.position s.engine.cmd)
    (hrestore : ∀ r, op = .restore r → Machine.headerHeld r.position r.cmd) :
    Machine.headerHeld t.engine.position t.engine.cmd := by
  cases op with
  | exchange x =>
    have hcap := headerHeld_capture x hs
    obtain ⟨_, u, hu, ⟨v, b, he, rfl⟩ | ⟨_, _, _, _, _, _, _, rfl⟩⟩ := h.exchange
    · obtain ⟨hengine, _⟩ := he.frame
      simpa only [State.answered_engine, hengine, hu.engine, capture_position] using hcap
    · simpa only [State.withFault_engine, hu.engine, capture_position] using headerHeld_mono hcap (Nat.le_succ _)
  | chipSelect asserted =>
    cases h
    split
    · exact headerHeld_zero _
    · exact hs
  | poll | save => cases h; exact hs
  | restore r => cases h <;> exact hrestore r rfl
  | teardown => cases h; exact headerHeld_zero _
  | construct opens =>
    cases h
    · exact headerHeld_zero _
    · exact hs

/-- Settles O50: the snapshots that are left to restore after a step were pending before it. -/
theorem stepKeepsTheHeaderHeld : Obligations.StepKeepsTheHeaderHeld := by
  intro s t
  refine step_keeps (P := State.HeaderHeld) fun {op rest s t} hl ⟨hheld, hpend⟩ ho => ⟨?_, fun r hr => hpend r ?_⟩
  · exact ho.headerHeld hheld fun r hop => hpend r (by simp [hl, hop])
  · have hrest : t.pending = rest := ho.params_pending.2
    exact hl ▸ List.mem_cons_of_mem op (hrest ▸ hr)

/-! ### The latch (R22 to R26, R101) -/

@[simp] theorem Latch.polled_irqStatus (l : Latch) : l.polled.irqStatus = l.irqStatus := by
  unfold Latch.polled; split <;> rfl

/-- What an operation can make of the latch, restore apart. -/
inductive Latch.Changes (l : Latch) : Latch → Prop where
  | kept : l.Changes l
  | polled : l.Changes l.polled
  | flagCleared : l.Changes l.clearIrq
  | armed : l.Changes l.arm
  | statusCleared : l.Changes l.clearStatus
  | constructed : l.Changes Latch.initial

theorem selectLatch_changes (a b : Byte) (l : Latch) : l.Changes (selectLatch a b l) := by
  unfold selectLatch
  split
  · exact .armed
  · split
    · exact .statusCleared
    · exact .kept

theorem Effect.latch_changes {i : Instr} {s u : State} (h : Effect i s u) : s.latch.Changes u.latch := by
  obtain hl | ⟨_, _, hl⟩ | ⟨_, _, hl⟩ | ⟨_, _, hl⟩ | ⟨_, a, b, c, _, hl⟩ := h.latch <;> rw [hl]
  · exact .kept
  · exact .flagCleared
  · exact .armed
  · exact .statusCleared
  · exact selectLatch_changes a b _

/-- An operation changes the latch in one of these ways, or restores it, the status with `SNAPSHOT_FULL` only. -/
theorem Operated.latch {op : Operation} {s t : State} (h : Operated op s t) :
    s.latch.Changes t.latch ∨
    ((∃ r, op = .restore r) ∧ (s.params.snapshotFull = true ∨ t.latch.irqStatus = s.latch.irqStatus)) := by
  cases op with
  | exchange x =>
    obtain ⟨_, u, hu, hu'⟩ := h.exchange
    obtain ⟨_, hlatch, _⟩ := hu.frame
    rw [← hlatch]
    obtain ⟨v, b, he, rfl⟩ | ⟨_, _, _, _, _, _, _, rfl⟩ := hu'
    · exact .inl he.latch_changes
    · exact .inl .kept
  | chipSelect asserted => cases h; split <;> exact .inl .kept
  | poll => cases h; exact .inl .polled
  | save => cases h; exact .inl .kept
  | restore r =>
    cases h with
    | restore => exact .inr ⟨⟨r, rfl⟩, .inr rfl⟩
    | restoreFull _ _ _ _ hf _ => exact .inr ⟨⟨r, rfl⟩, .inl hf⟩
  | teardown => cases h; exact .inl .constructed
  | construct opens =>
    cases h
    · exact .inl .constructed
    · exact .inl .kept

/-- Only the arm and the clears write the status. -/
theorem Latch.Changes.irqStatus {l l' : Latch} (h : l.Changes l') :
    l'.irqStatus = l.irqStatus ∨ l'.irqStatus = 0x00 ∨ l'.irqStatus = 0x02 := by
  cases h with
  | kept | flagCleared => exact .inl rfl
  | polled => exact .inl (Latch.polled_irqStatus l)
  | armed => exact .inr (.inr rfl)
  | statusCleared | constructed => exact .inr (.inl rfl)

/-- Settles O52: without `SNAPSHOT_FULL` restore leaves the status, and what else writes it writes 0x00 or 0x02. -/
theorem stepKeepsTheStatusLegal : Obligations.StepKeepsTheStatusLegal := by
  intro s t
  refine step_keeps (P := State.StatusLegal) fun {op rest s t} _ ⟨hfull, hs⟩ ho => ?_
  have hparams : t.params = s.params := ho.params_pending.1
  refine ⟨hparams ▸ hfull, ?_⟩
  have hstatus : t.latch.irqStatus = s.latch.irqStatus ∨ t.latch.irqStatus = 0x00 ∨ t.latch.irqStatus = 0x02 := by
    obtain hl | ⟨_, hf | hl⟩ := ho.latch
    · exact hl.irqStatus
    · exact absurd (hf.symm.trans hfull) (by decide)
    · exact .inl hl
  obtain hk | hl := hstatus
  · rwa [hk]
  · exact hl

/-- The bound of R24 on a latch. -/
def Latch.Bounded (l : Latch) : Prop := l.irqTimer ≤ 5 ∧ (l.haveIrq = true → l.irqTimer ≤ 4)

theorem Latch.Bounded.polled {l : Latch} (h : l.Bounded) : l.polled.Bounded := by
  obtain ⟨htimer, hflag⟩ := h
  unfold Latch.polled
  split
  · exact ⟨Nat.succ_le_succ (hflag ‹_›), of_decide_eq_true⟩
  · exact ⟨htimer, hflag⟩

/-- A poll keeps the bound, and the other changes keep the counter or reset it. -/
theorem Latch.Changes.bounded {l l' : Latch} (h : l.Changes l') (hb : l.Bounded) : l'.Bounded := by
  cases h with
  | kept | statusCleared => exact hb
  | polled => exact hb.polled
  | flagCleared => exact ⟨hb.1, nofun⟩
  | armed => exact ⟨Nat.zero_le _, fun _ => Nat.zero_le _⟩
  | constructed => exact ⟨Nat.zero_le _, nofun⟩

/-- Settles O53: no restore is pending, and the other changes of the latch keep the bound. -/
theorem stepKeepsTheTimerBounded : Obligations.StepKeepsTheTimerBounded := by
  intro s t
  refine step_keeps (P := State.TimerBounded) fun {op rest s t} hpend ⟨hno, hb⟩ ho => ⟨fun r hr => hno r ?_, ?_⟩
  · have hrest : t.pending = rest := ho.params_pending.2
    exact hpend ▸ List.mem_cons_of_mem op (hrest ▸ hr)
  · obtain hl | ⟨⟨r, rfl⟩, _⟩ := ho.latch
    · exact hl.bounded hb
    · exact absurd (by simp [hpend]) (hno r)

/-! ### The recorded fault (R97, R108, R109) -/

/-- The commands without a continuation, by opcode (R97). -/
theorem noContinuation_iff {i : Instr} {o a b c : Byte} (hwf : i.wf = true) (he : encode i = [o, a, b, c]) :
    NoContinuation i ↔ ¬(o = 0x00 ∧ a = 0x00) ∧ o ≠ 0x03 ∧ o ≠ 0x82 ∧ o ≠ 0x86 := by
  cases i with
  | unknown o' a' b' c' =>
    cases he
    obtain ⟨h0, _, _, h3, _, h82, _, h86, _⟩ := not_recognised (o := o) (a := a) (by simpa [Instr.wf] using hwf)
    exact ⟨fun _ => ⟨not_and_or.2 h0, h3, h82, h86⟩, fun _ => ⟨nofun, nofun, nofun, nofun⟩⟩
  | idread | setoff | bkwr | bkrd | cmd05 | statrd | cmd83 | cmd86 | cmd87 | irqarm | irqclr | irqctl =>
    cases he; simp [NoContinuation]

/-- The recorded fault: none, kept where the device stands, or of the command in the buffer. -/
theorem Operated.fault {op : Operation} {s t : State} (h : Operated op s t) :
    t.fault = none ∨ (t.fault = s.fault ∧ t.engine.position = s.engine.position) ∨
    ∃ o, t.fault = some (.continuationUndefined o t.engine.position) ∧ 5 ≤ t.engine.position ∧
      o ≠ 0x03 ∧ o ≠ 0x82 ∧ o ≠ 0x86 := by
  cases op with
  | exchange x =>
    obtain ⟨⟨⟨_, hlive⟩, _⟩, u, hu, ⟨v, b, he, rfl⟩ | ⟨o, a, b, c, he, hno, hp, rfl⟩⟩ := h.exchange
    · obtain ⟨_, _, hfault, _⟩ := hu.frame
      obtain ⟨_, hfault', _⟩ := he.frame
      exact .inl (hfault'.trans (hfault.trans hlive))
    · exact .inr (.inr ⟨o, rfl, hp, ((noContinuation_iff (decodeHeader_wf _ _ _ _) he).1 hno).2⟩)
  | chipSelect asserted =>
    cases h with | chipSelect _ _ hl => exact .inl (by split <;> exact hl.2)
  | poll => cases h with | poll _ hl => exact .inl hl.2
  | save => cases h with | save _ hl => exact .inl hl.2
  | restore r =>
    cases h with
    | restore _ _ hl => exact .inl hl.2
    | restoreFull _ _ _ hl => exact .inl hl.2
  | teardown => cases h; exact .inl rfl
  | construct opens =>
    cases h
    · exact .inl rfl
    · exact .inr (.inl ⟨rfl, rfl⟩)

/-- Settles O54: a new fault is that of the command in the buffer, at the position where the exchange stopped. -/
theorem stepKeepsTheFaultExplained : Obligations.StepKeepsTheFaultExplained := by
  intro s t
  refine step_keeps (P := State.FaultExplained) fun {op rest s t} _ hs ho o p hf => ?_
  obtain hn | ⟨hk, hpos⟩ | ⟨o', hnew, hp, ho'⟩ := ho.fault
  · simp [hn] at hf
  · rw [hpos]; exact hs o p (hk ▸ hf)
  · rw [hnew] at hf
    cases hf
    exact ⟨rfl, hp, ho'⟩

/-! ### The offset (R20) -/

/-- From position 4 on nothing is captured (R67). -/
theorem capture_of_four_le (x : Byte) {s : State} (hp : 4 ≤ s.engine.position) : capture x s = s :=
  if_neg (by omega)

/-- The header in the buffer is that of the command read from it. -/
theorem encode_fetchCommand (s : State) :
    encode (fetchCommand s) = [headerByte s 0, headerByte s 1, headerByte s 2, headerByte s 3] :=
  encode_decodeHeader _ _ _ _

/-- `backup_offset`: kept, written by SETOFF at position 4, reset, or restored. -/
theorem Operated.offset {op : Operation} {s t : State} (h : Operated op s t) :
    t.backupOffset = s.backupOffset ∨
    (∃ x, op = .exchange x ∧ s.engine.position = 4 ∧ headerByte s 0 = 0x01 ∧
      t.backupOffset = offsetOperand (headerByte s 1) (headerByte s 2)) ∨
    (op = .teardown ∧ t.present = false) ∨ (op = .construct true ∧ s.present = false) ∨
    s.params.snapshotFull = true := by
  cases op with
  | exchange x =>
    obtain ⟨_, u, hu, hu'⟩ := h.exchange
    obtain ⟨hoffset, _⟩ := hu.frame
    rw [← hoffset]
    obtain ⟨v, b, he, rfl⟩ | ⟨_, _, _, _, _, _, _, rfl⟩ := hu'
    · obtain hv | ⟨hp, a, b, c, hi, hv⟩ := he.offset
      · exact .inl hv
      · rw [hu.position] at hp
        have henc := encode_fetchCommand s
        rw [capture_of_four_le x hp.ge] at hi
        simp only [hi, encode, List.cons.injEq] at henc
        obtain ⟨h0, h1, h2, _⟩ := henc
        exact .inr (.inl ⟨x, rfl, hp, h0.symm, by rw [← h1, ← h2]; exact hv⟩)
    · exact .inl rfl
  | chipSelect asserted => cases h; exact .inl (by split <;> rfl)
  | poll | save => cases h; exact .inl rfl
  | restore r =>
    cases h with
    | restore => exact .inl rfl
    | restoreFull _ _ _ _ hf _ => exact .inr (.inr (.inr (.inr hf)))
  | teardown => cases h; exact .inr (.inr (.inl ⟨rfl, rfl⟩))
  | construct opens =>
    cases h with
    | construct _ hp => exact .inr (.inr (.inr (.inl ⟨rfl, hp⟩)))
    | openFails => exact .inl rfl

/-- Settles O57: of the operations that write the offset, `SNAPSHOT_FULL = false` leaves SETOFF and the lifecycle. -/
theorem onlySetoffWritesTheOffset : Obligations.OnlySetoffWritesTheOffset := by
  intro s t hfull h hne
  obtain ⟨_, _, rfl⟩ | ⟨op, rest, hl, ho⟩ := step_next h
  · exact absurd rfl hne
  · obtain hk | ⟨x, rfl, hp, h0, hv⟩ | ⟨rfl, hp⟩ | ⟨rfl, hp⟩ | hf := ho.offset
    · exact absurd hk hne
    · exact .inl ⟨x, rest, hl, hp, h0, hv.trans (offsetOperand_eq _ _)⟩
    · exact .inr (.inl ⟨by simp [hl], hp⟩)
    · exact .inr (.inr ⟨by simp [hl], hp⟩)
    · exact absurd (hf.symm.trans hfull) (by decide)

end Sys2Proof.Machine
end

section
/-! PROOFS of the non-interference statements (spec/10_state.md R18, R19, R21): `backup_offset`, and the bytes of the command
buffer that the transaction has not reached. -/

namespace Sys2Proof.Machine

/-! ### Conditions on equal fields -/

/-- The condition of R109 in two states, of results that agree under `F`. -/
theorem mapNext_whileLive {F : State → State} {s s' : State} {r r' : Result} (hp : s'.present = s.present)
    (hf : s'.fault = s.fault) (h : mapNext F r' = mapNext F r) :
    mapNext F (whileLive s' r') = mapNext F (whileLive s r) := by
  unfold whileLive
  rw [hp, hf]
  split
  · split
    · rfl
    · exact h
  · rfl

/-- The condition of R76 in two states, of results that agree under `F`. -/
theorem mapNext_whileRoom {F : State → State} {s s' : State} {r r' : Result} (hq : s'.params = s.params)
    (hp : s'.engine.position = s.engine.position) (h : mapNext F r' = mapNext F r) :
    mapNext F (whileRoom s' r') = mapNext F (whileRoom s r) := by
  unfold whileRoom
  rw [hq, hp]
  split
  · rfl
  · exact h

/-! ### The offset influences nothing (R21) -/

/-- The outcome of `f` depends on `backup_offset` in that field at most. -/
def IgnoresOffset (f : State → Result) : Prop :=
  ∀ (s : State) (v : Half), mapNext State.forgetOffset (f (s.withOffset v)) = mapNext State.forgetOffset (f s)

/-- A result whose only trace of the offset written before is the offset itself. -/
theorem IgnoresOffset.of_next {f : State → Result} {g : State → State} (hf : ∀ s, f s = .next (g s))
    (hg : ∀ s v, g (s.withOffset v) = (g s).withOffset v) : IgnoresOffset f := by
  intro s v
  rw [hf, hf, hg]; rfl

theorem IgnoresOffset.comp {f : State → Result} {g : State → State} (hf : IgnoresOffset f)
    (hg : ∀ s v, g (s.withOffset v) = (g s).withOffset v) : IgnoresOffset fun s => f (g s) := by
  intro s v
  show mapNext _ (f (g (s.withOffset v))) = _
  rw [hg]; exact hf (g s) v

theorem IgnoresOffset.whileLive {f : State → Result} (hf : IgnoresOffset f) :
    IgnoresOffset fun s => whileLive s (f s) :=
  fun s v => mapNext_whileLive (s := s) rfl rfl (hf s v)

theorem IgnoresOffset.whileRoom {f : State → Result} (hf : IgnoresOffset f) :
    IgnoresOffset fun s => whileRoom s (f s) :=
  fun s v => mapNext_whileRoom (s := s) rfl rfl (hf s v)

/-- A choice made without the offset. -/
theorem IgnoresOffset.ite {p : State → Prop} [DecidablePred p] {f g : State → Result} (hf : IgnoresOffset f)
    (hg : IgnoresOffset g) (hp : ∀ s v, p (s.withOffset v) ↔ p s) :
    IgnoresOffset fun s => if p s then f s else g s := by
  intro s v
  by_cases h : p s
  · simpa [h, hp] using hf s v
  · simpa [h, hp] using hg s v

theorem answer_ignoresOffset (b : Byte) : IgnoresOffset (answer b) := .of_next (answer_eq b) fun _ _ => rfl

theorem continuationFault_ignoresOffset (o : Byte) : IgnoresOffset (continuationFault o) :=
  .of_next (fun _ => rfl) fun _ _ => rfl

theorem logAndAnswer_ignoresOffset (o a b : Byte) : IgnoresOffset (logAndAnswer o a b) :=
  .of_next (fun _ => rfl) fun _ _ => rfl

theorem irqDispatch_ignoresOffset (a b : Byte) : IgnoresOffset (irqDispatch a b) :=
  .of_next (fun _ => rfl) fun _ _ => rfl

theorem unknownDispatch_ignoresOffset (o a b : Byte) : IgnoresOffset (unknownDispatch o a b) :=
  .of_next (fun _ => rfl) fun _ _ => rfl

/-- SETOFF overwrites the offset. -/
theorem setoffDispatch_ignoresOffset (a b : Byte) : IgnoresOffset (setoffDispatch a b) := fun _ _ => rfl

theorem bkwrDispatch_ignoresOffset (a : Byte) : IgnoresOffset (bkwrDispatch a) := by
  intro s v
  simp only [bkwrDispatch, storeWrite, State.withOffset_store]
  cases s.store.cursor <;> rfl

theorem storeRead_withOffset (s : State) (v : Half) :
    storeRead (s.withOffset v) = ((storeRead s).1, (storeRead s).2.withOffset v) := by
  simp only [storeRead, memRead, State.withOffset_store]
  cases s.store.cursor with
  | none => rfl
  | some c =>
    by_cases hc : c < s.store.blob.len
    · simp only [hc, if_true]
      cases s.store.blob.read c <;> rfl
    · simp only [hc, if_false]
      rfl

theorem bkrdContinuation_ignoresOffset : IgnoresOffset bkrdContinuation := by
  intro s v
  rw [bkrdContinuation, storeRead_withOffset]; rfl

theorem statrdContinuation_ignoresOffset : IgnoresOffset statrdContinuation :=
  .ite (.of_next (fun _ => rfl) fun _ _ => rfl) (answer_ignoresOffset 0x00) fun _ _ => Iff.rfl

theorem checkHeader_withOffset (o a b c : Byte) (s : State) (v : Half) :
    checkHeader o a b c (s.withOffset v) = (checkHeader o a b c s).withOffset v := by
  unfold checkHeader; split <;> rfl

theorem runCommand_ignoresOffset (o a b c : Byte) {d k : State → Result} (hd : IgnoresOffset d) (hk : IgnoresOffset k) :
    IgnoresOffset (runCommand o a b c d k) :=
  .whileLive <| .whileRoom <|
    .ite (answer_ignoresOffset 0xFF)
      (.ite ((answer_ignoresOffset 0xFF).comp (checkHeader_withOffset o a b c))
        (.ite hd hk fun _ _ => Iff.rfl) fun _ _ => Iff.rfl) fun _ _ => Iff.rfl

theorem answerId_ignoresOffset : IgnoresOffset answerId := .of_next (fun _ => rfl) fun _ _ => rfl

/-- No command reads the offset. -/
theorem exec_ignoresOffset (i : Instr) : IgnoresOffset (exec i) := by
  cases i with
  | idread b c =>
    exact .whileLive <| .whileRoom <| .ite (answer_ignoresOffset 0xFF) answerId_ignoresOffset fun _ _ => Iff.rfl
  | setoff a b c =>
    exact runCommand_ignoresOffset _ _ _ _ (setoffDispatch_ignoresOffset a b) (continuationFault_ignoresOffset _)
  | bkwr a b c => exact runCommand_ignoresOffset _ _ _ _ (bkwrDispatch_ignoresOffset a) (continuationFault_ignoresOffset _)
  | bkrd a b c => exact runCommand_ignoresOffset _ _ _ _ (answer_ignoresOffset _) bkrdContinuation_ignoresOffset
  | cmd05 a b c => exact runCommand_ignoresOffset _ _ _ _ (answer_ignoresOffset _) (continuationFault_ignoresOffset _)
  | statrd a b c =>
    exact runCommand_ignoresOffset _ _ _ _ (logAndAnswer_ignoresOffset _ a b) statrdContinuation_ignoresOffset
  | cmd86 a b c => exact runCommand_ignoresOffset _ _ _ _ (logAndAnswer_ignoresOffset _ a b) (answer_ignoresOffset _)
  | cmd83 a b c | cmd87 a b c =>
    exact runCommand_ignoresOffset _ _ _ _ (logAndAnswer_ignoresOffset _ a b) (continuationFault_ignoresOffset _)
  | irqarm c | irqclr c | irqctl a b c =>
    exact runCommand_ignoresOffset _ _ _ _ (irqDispatch_ignoresOffset _ _) (continuationFault_ignoresOffset _)
  | unknown o a b c =>
    exact runCommand_ignoresOffset _ _ _ _ (unknownDispatch_ignoresOffset o a b) (continuationFault_ignoresOffset _)

theorem capture_withOffset (x : Byte) (s : State) (v : Half) :
    capture x (s.withOffset v) = (capture x s).withOffset v := by
  rw [capture_eq x (s.withOffset v), capture_engine, capture_eq x s, capture_engine]; rfl

theorem afterHeader_withOffset (n : Nat) (s : State) (v : Half) :
    afterHeader n (s.withOffset v) = (afterHeader n s).withOffset v := by
  have hc : captured (s.withOffset v) n = captured s n := rfl
  unfold afterHeader
  rw [hc]
  split <;> rfl

theorem exchangeBody_ignoresOffset : IgnoresOffset exchangeBody := by
  have hbody : IgnoresOffset fun s => exec (fetchCommand s) (afterHeader (headerRead s) s) := by
    intro s v
    show mapNext _ (exec (fetchCommand s) (afterHeader (headerRead s) (s.withOffset v))) = _
    rw [afterHeader_withOffset]
    exact exec_ignoresOffset (fetchCommand s) _ v
  exact .ite (answer_ignoresOffset 0xFF)
    (.ite (.ite (answerId_ignoresOffset.comp (afterHeader_withOffset 2))
      ((answer_ignoresOffset 0xFF).comp (afterHeader_withOffset 2)) fun _ _ => Iff.rfl) hbody fun _ _ => Iff.rfl)
    fun _ _ => Iff.rfl

theorem exchange_ignoresOffset (x : Byte) : IgnoresOffset (exchange x) :=
  .whileLive fun s v => mapNext_whileRoom (s := s) rfl rfl (exchangeBody_ignoresOffset.comp (capture_withOffset x) s v)

/-- Without `SNAPSHOT_FULL` no operation's outcome depends on the offset. -/
theorem operate_withOffset (op : Operation) {s : State} (v : Half) (hfull : s.params.snapshotFull = false) :
    mapNext State.forgetOffset (operate op (s.withOffset v)) = mapNext State.forgetOffset (operate op s) := by
  cases op with
  | exchange x => exact exchange_ignoresOffset x s v
  | chipSelect asserted => refine mapNext_whileLive rfl rfl ?_; cases asserted <;> rfl
  | poll => exact mapNext_whileLive rfl rfl rfl
  | save =>
    have hsnap : snapshotOf (s.withOffset v) = snapshotOf s := by simp [snapshotOf, hfull]
    refine mapNext_whileLive rfl rfl ?_
    rw [hsnap]; rfl
  | restore r =>
    refine mapNext_whileLive rfl rfl ?_
    rw [State.withOffset_params, hfull]; rfl
  | teardown => rfl
  | construct opens =>
    cases opens with
    | true => rfl
    | false =>
      by_cases hp : s.present = true <;>
        simp [operate, construct, hp, mapNext, andThen, State.forgetOffset, State.withOffset]

/-- Settles O58: a step is an operation, or idles by the fault alone. -/
theorem offsetInfluencesNothing : Obligations.OffsetInfluencesNothing := by
  intro s v hfull
  cases hl : s.pending with
  | nil =>
    rw [step_nil hl, step_nil (s := s.withOffset v) hl]
    unfold idle
    rw [State.withOffset_fault]
    cases s.fault <;> rfl
  | cons op rest =>
    rw [step_cons hl, step_cons (s := s.withOffset v) hl]
    exact operate_withOffset op (s := s.withPending rest) v hfull

/-! ### Stale bytes influence nothing (R18, R19) -/

/-- The bytes of a buffer below a position. -/
def CmdBuffer.reached (p : Nat) (b : CmdBuffer) : CmdBuffer where
  b0 := if 0 < p then b.b0 else none
  b1 := if 1 < p then b.b1 else none
  b2 := if 2 < p then b.b2 else none
  b3 := if 3 < p then b.b3 else none

theorem forgetStale_eq (s : State) : s.forgetStale = s.withCmd (s.engine.cmd.reached s.engine.position) := rfl

theorem CmdBuffer.get_reached (b : CmdBuffer) (p k : Nat) : (b.reached p).get k = if k < p then b.get k else none := by
  unfold CmdBuffer.get
  split <;> first | rfl | exact (ite_self _).symm

/-- A buffer is its four bytes. -/
theorem CmdBuffer.ext_get {b b' : CmdBuffer} (h : ∀ k < 4, b.get k = b'.get k) : b = b' := by
  obtain ⟨b0, b1, b2, b3⟩ := b
  obtain ⟨b0', b1', b2', b3'⟩ := b'
  rw [show b0 = b0' from h 0 (by decide), show b1 = b1' from h 1 (by decide), show b2 = b2' from h 2 (by decide),
    show b3 = b3' from h 3 (by decide)]

theorem CmdBuffer.reached_congr {p : Nat} {b b' : CmdBuffer} (h : ∀ k < p, b.get k = b'.get k) :
    b.reached p = b'.reached p :=
  ext_get fun k _ => by
    rw [get_reached, get_reached]
    exact ite_congr rfl (h k) fun _ => rfl

theorem CmdBuffer.reached_of_four_le {p : Nat} (b : CmdBuffer) (hp : 4 ≤ p) : b.reached p = b :=
  ext_get fun k hk => by rw [get_reached, if_pos (by omega)]

/-- States that differ in stale bytes only are the same once those are forgotten. -/
theorem forgetStale_withCmd {s : State} {b : CmdBuffer} (h : ∀ k < s.engine.position, b.get k = s.engine.cmd.get k) :
    (s.withCmd b).forgetStale = s.forgetStale :=
  congrArg s.withCmd (CmdBuffer.reached_congr h)

theorem forgetStale_idem (s : State) : s.forgetStale.forgetStale = s.forgetStale :=
  forgetStale_withCmd (s := s) fun _ hk => (CmdBuffer.get_reached _ _ _).trans (if_pos hk)

/-- An answer hands back nothing of the bytes that are stale after it. -/
theorem answer_withCmd {s : State} {b : CmdBuffer} (out : Byte)
    (h : ∀ k < s.engine.position + 1, b.get k = s.engine.cmd.get k) :
    mapNext State.forgetStale (answer out (s.withCmd b)) = mapNext State.forgetStale (answer out s) :=
  congrArg Host.Outcome.next (forgetStale_withCmd (s := s.answered out) h)

/-- Reading the first two bytes of buffers that agree there. -/
theorem afterHeader_two_withCmd {s : State} {b : CmdBuffer} (h : ∀ k < 2, b.get k = s.engine.cmd.get k) :
    afterHeader 2 (s.withCmd b) = (afterHeader 2 s).withCmd b := by
  have hc : captured (s.withCmd b) 2 = captured s 2 := by
    rw [Bool.eq_iff_iff, captured_iff, captured_iff]
    exact forall₂_congr fun k hk => by rw [← h k hk]; rfl
  unfold afterHeader
  rw [hc]
  split <;> rfl

theorem idSelected_withCmd {s : State} {b : CmdBuffer} (h : ∀ k < 2, b.get k = s.engine.cmd.get k) :
    idSelected (s.withCmd b) = idSelected s := by
  simp [idSelected, headerByte, h]

/-- Before position 3 an exchange reads no byte of the buffer above its position. -/
theorem exchangeBody_withCmd {s : State} {b : CmdBuffer} (hp : s.engine.position < 3)
    (h : ∀ k < s.engine.position + 1, b.get k = s.engine.cmd.get k) :
    mapNext State.forgetStale (exchangeBody (s.withCmd b)) = mapNext State.forgetStale (exchangeBody s) := by
  unfold exchangeBody
  rw [State.withCmd_engine]
  by_cases hlt : s.engine.position < 2
  · rw [if_pos hlt, if_pos hlt]
    exact answer_withCmd 0xFF h
  · have heq : s.engine.position = 2 := by omega
    have htwo : ∀ k < 2, b.get k = s.engine.cmd.get k := fun k hk => h k (by omega)
    have hengine : (afterHeader 2 s).engine = s.engine := by rw [afterHeader_eq]; rfl
    rw [← hengine] at h
    rw [if_neg hlt, if_neg hlt, if_pos heq, if_pos heq, idSelected_withCmd htwo, afterHeader_two_withCmd htwo]
    split
    · exact answer_withCmd (idByte (afterHeader 2 s).engine.position) h
    · exact answer_withCmd 0xFF h

/-- After the capture the stale bytes are those above the position. -/
theorem capture_forgetStale (x : Byte) (s : State) :
    ∃ b, capture x s.forgetStale = (capture x s).withCmd b ∧
      ∀ k < s.engine.position + 1, b.get k = (capture x s).engine.cmd.get k := by
  refine ⟨(capture x s.forgetStale).engine.cmd, ?_, fun k hk => ?_⟩
  · rw [capture_eq x s.forgetStale, capture_eq x s]; rfl
  · rw [capture_engine, capture_engine]
    show CmdBuffer.get (if s.engine.position < 4 then (s.engine.cmd.reached s.engine.position).set s.engine.position x
      else s.engine.cmd.reached s.engine.position) k = _
    by_cases hp : s.engine.position < 4
    · rw [if_pos hp, if_pos hp]
      by_cases hkp : k = s.engine.position
      · rw [hkp, CmdBuffer.get_set_same _ _ hp, CmdBuffer.get_set_same _ _ hp]
      · rw [CmdBuffer.get_set_of_ne _ _ hkp, CmdBuffer.get_set_of_ne _ _ hkp, CmdBuffer.get_reached, if_pos (by omega)]
    · rw [if_neg hp, if_neg hp, CmdBuffer.reached_of_four_le _ (by omega)]

theorem exchangeBody_forgetStale (x : Byte) (s : State) :
    mapNext State.forgetStale (exchangeBody (capture x s.forgetStale)) =
      mapNext State.forgetStale (exchangeBody (capture x s)) := by
  obtain ⟨b, hcap, hb⟩ := capture_forgetStale x s
  rw [hcap]
  by_cases hp : s.engine.position < 3
  · exact exchangeBody_withCmd ((capture_position x s).trans_lt hp) (by rwa [capture_position])
  · have hsame : b = (capture x s).engine.cmd := CmdBuffer.ext_get fun k hk => hb k (by omega)
    rw [hsame]; rfl

/-- No operation but Save hands back a stale byte. -/
theorem operate_forgetStale {op : Operation} (s : State) (hop : op ≠ .save) :
    mapNext State.forgetStale (operate op s.forgetStale) = mapNext State.forgetStale (operate op s) := by
  cases op with
  | exchange x => exact mapNext_whileLive rfl rfl (mapNext_whileRoom rfl rfl (exchangeBody_forgetStale x s))
  | chipSelect asserted =>
    refine mapNext_whileLive rfl rfl (congrArg Host.Outcome.next ?_)
    cases asserted with
    | true => exact forgetStale_withCmd (s := s.withPosition 0) fun k hk => absurd hk (Nat.not_lt_zero k)
    | false => exact forgetStale_idem s
  | poll =>
    refine mapNext_whileLive rfl rfl (congrArg Host.Outcome.next ?_)
    exact forgetStale_idem ((s.withLatch s.latch.polled).addReply (.irq s.latch.haveIrq))
  | save => exact absurd rfl hop
  | restore r => exact mapNext_whileLive rfl rfl rfl
  | teardown => rfl
  | construct opens =>
    cases opens with
    | true => rfl
    | false =>
      by_cases hp : s.present = true
      · simp [operate, construct, State.forgetStale, hp, mapNext, andThen]
      · simpa [operate, construct, forgetStale_eq, hp, mapNext, andThen] using forgetStale_idem s

/-- Settles O59: a step is an operation, or idles by the fault alone. -/
theorem staleBytesInfluenceNothing : Obligations.StaleBytesInfluenceNothing := by
  intro s hsave
  cases hl : s.pending with
  | nil =>
    rw [step_nil hl, step_nil (s := s.forgetStale) hl]
    unfold idle
    rw [forgetStale_eq, State.withCmd_fault, ← forgetStale_eq]
    cases s.fault with
    | none => exact congrArg Host.Outcome.next (forgetStale_idem s)
    | some r => rfl
  | cons op rest =>
    rw [step_cons hl, step_cons (s := s.forgetStale) hl]
    exact operate_forgetStale (s.withPending rest) fun hop => hsave (by rw [hl, hop]; rfl)

end Sys2Proof.Machine
end

section
/-! PROOFS of the commands' statements (spec/41_commands.md): the dispatch and the continuation of each command as equations,
the store commands, and what a command can do to the latch and to the notifications. -/

namespace Sys2Proof.Machine

/-! ### Commands that only answer, log or notify -/

/-- Settles O21: from position 2 on IDREAD is the answer of the identification byte. -/
theorem idreadAnswersTheSequence : Obligations.IdreadAnswersTheSequence := by
  intro b c s hr hp
  rw [← idByte_eq]
  exact execIdread_of_two_le b c hr hp

/-- Settles O29: CMD05's dispatch is the bare answer. -/
theorem cmdFiveOnlyAnswers : Obligations.CmdFiveOnlyAnswers := fun a b c _ hr hp =>
  runCommand_of_eq_four 0x05 a b c (answer 0x04) (continuationFault 0x05) hr hp

/-- Settles O32: the dispatch of CMD83 and CMD87 logs and answers. -/
theorem loggedCommandsOnlyLog : Obligations.LoggedCommandsOnlyLog := fun a b c _ hr hp =>
  ⟨runCommand_of_eq_four 0x83 a b c (logAndAnswer 0x83 a b) (continuationFault 0x83) hr hp,
    runCommand_of_eq_four 0x87 a b c (logAndAnswer 0x87 a b) (continuationFault 0x87) hr hp⟩

/-- Settles O38: UNKNOWN's dispatch records its event and answers. -/
theorem unknownOnlyReports : Obligations.UnknownOnlyReports := fun o a b c _ hr hp =>
  runCommand_of_eq_four o a b c (unknownDispatch o a b) (continuationFault o) hr hp

/-- Settles O31: STATRD's continuation by position. -/
theorem statrdReadsTheStatusAtSix : Obligations.StatrdReadsTheStatusAtSix := by
  intro a b c s hr hp
  rw [exec_statrd, runCommand_of_five_le _ _ _ _ _ _ hr hp, statrdContinuation]
  exact ⟨fun h6 => if_pos h6, fun h6 => if_neg h6⟩

/-- Every opcode-0xFF command's dispatch writes the latch its selector names, and notifies. -/
theorem irqDispatch_eq (a b : Byte) (s : State) :
    irqDispatch a b s =
      .next ({ s with latch := selectLatch a b s.latch, events := s.events ++ [Event.notify] }.answered 0x04) := rfl

/-- A selector that is neither named one leaves the latch. -/
theorem selectLatch_of_not_named {a b : Byte} (l : Latch) (harm : ¬(a = 0x00 ∧ b = 0x00))
    (hclear : ¬(a = 0x02 ∧ b = 0x01)) :
    selectLatch a b l = l := by
  have ha : armSelector a b = false := by
    simpa only [armSelector, Bool.and_eq_false_iff, beq_eq_false_iff_ne] using not_and_or.1 harm
  have hc : clearSelector a b = false := by
    simpa only [clearSelector, Bool.and_eq_false_iff, beq_eq_false_iff_ne] using not_and_or.1 hclear
  rw [selectLatch, ha, hc]; rfl

/-- Settles O35: the selector (00, 00) arms. -/
theorem irqarmArmsTheLatch : Obligations.IrqarmArmsTheLatch := fun c _ hr hp =>
  runCommand_of_eq_four 0xFF 0x00 0x00 c (irqDispatch 0x00 0x00) (continuationFault 0xFF) hr hp

/-- Settles O36: the selector (02, 01) clears the status. -/
theorem irqclrClearsOnlyTheStatus : Obligations.IrqclrClearsOnlyTheStatus := fun c _ hr hp =>
  runCommand_of_eq_four 0xFF 0x02 0x01 c (irqDispatch 0x02 0x01) (continuationFault 0xFF) hr hp

/-- Settles O37: another selector leaves the latch, and the notification is made all the same. -/
theorem irqctlOnlyNotifies : Obligations.IrqctlOnlyNotifies := by
  intro a b c s hr hp harm hclear
  have hrun := runCommand_of_eq_four 0xFF a b c (irqDispatch a b) (continuationFault 0xFF) hr hp
  rw [irqDispatch_eq, selectLatch_of_not_named _ harm hclear] at hrun
  exact hrun

/-! ### The store commands (R81 to R84) -/

/-- Settles O22: SETOFF's dispatch writes the offset and seeks to it. -/
theorem setoffSeeksToTheOffset : Obligations.SetoffSeeksToTheOffset := by
  intro a b c s hr hp
  rw [← offsetOperand_eq, ← offsetOperand_toNat]
  exact runCommand_of_eq_four 0x01 a b c (setoffDispatch a b) (continuationFault 0x01) hr hp

theorem exec_bkwr_of_eq_four {s : State} (a b c : Byte) (hr : s.Ready) (hp : s.engine.position = 4) :
    exec (.bkwr a b c) s = andThen (storeWrite a s) fun t => answer 0x01 (storeFlush t) :=
  runCommand_of_eq_four 0x02 a b c (bkwrDispatch a) (continuationFault 0x02) hr hp

/-- Settles O23: at a specified cursor BKWR's write completes and is flushed. -/
theorem bkwrWritesAtTheCursor : Obligations.BkwrWritesAtTheCursor := by
  intro a b c s k hr hp hk
  rw [exec_bkwr_of_eq_four a b c hr hp, storeWrite, hk]; rfl

/-- Settles O25: at an unspecified cursor BKWR's write is refused. -/
theorem bkwrRefusedAtAnUnspecifiedCursor : Obligations.BkwrRefusedAtAnUnspecifiedCursor := by
  intro a b c s hr hp hk
  rw [exec_bkwr_of_eq_four a b c hr hp, storeWrite, hk]; rfl

/-- Settles O24: a completed BKWR wrote at the cursor, and a write changes the byte at its own address only. -/
theorem bkwrChangesOneByte : Obligations.BkwrChangesOneByte := by
  intro a b c s t k hp hk h
  have hr : s.Ready := (exec_next h).1
  rw [bkwrWritesAtTheCursor a b c s k hr hp hk] at h
  cases h
  exact ⟨Blob.read_write_same _ _ _, fun _ hx => Blob.read_write_other _ _ hx, rfl⟩

theorem exec_bkrd_of_five_le {s : State} (a b c : Byte) (hr : s.Ready) (hp : 5 ≤ s.engine.position) :
    exec (.bkrd a b c) s = .next ((storeRead s).2.answered (storeRead s).1) := by
  rw [exec_bkrd, runCommand_of_five_le _ _ _ _ _ _ hr hp, bkrdContinuation, answer_eq]

/-- Settles O27: of the cases of `StoreRead`, the one that finds a byte. -/
theorem bkrdReadsTheByteAtTheCursor : Obligations.BkrdReadsTheByteAtTheCursor := by
  intro a b c v s k hr hp hk hv
  rw [exec_bkrd_of_five_le a b c hr hp]
  obtain ⟨_, _, hk', _, hv', h⟩ | ⟨_, hk', hv', _⟩ | ⟨hk', _⟩ := storeRead_cases s
  · rw [hk] at hk'
    cases hk'
    rw [hv] at hv'
    cases hv'
    rw [h]; rfl
  · rw [hk] at hk'
    cases hk'
    simp [hv] at hv'
  · simp [hk] at hk'

/-- Settles O28: of the cases of `StoreRead`, the two that draw. -/
theorem bkrdDrawsAnUnspecifiedByte : Obligations.BkrdDrawsAnUnspecifiedByte := by
  intro a b c s hr hp
  rw [exec_bkrd_of_five_le a b c hr hp]
  obtain ⟨_, _, hk, _, hv, _⟩ | ⟨_, hk, _, h⟩ | ⟨hk, h⟩ := storeRead_cases s
  · refine ⟨fun k hk' hv' => ?_, fun hk' => by simp [hk] at hk'⟩
    rw [hk] at hk'
    cases hk'
    simp [hv] at hv'
  · refine ⟨fun k hk' _ => ?_, fun hk' => by simp [hk] at hk'⟩
    rw [hk] at hk'
    cases hk'
    rw [h]; rfl
  · exact ⟨fun k hk' => by simp [hk] at hk', fun _ => by rw [h]; rfl⟩

/-! ### Commands without a continuation (R97) -/

/-- Every command without a continuation raises the fault of its opcode above position 4. -/
theorem exec_eq_continuationFault {i : Instr} {o a b c : Byte} {s : State} (he : encode i = [o, a, b, c])
    (hi : NoContinuation i) (hr : s.Ready) (hp : 5 ≤ s.engine.position) : exec i s = continuationFault o s := by
  obtain ⟨hidread, hbkrd, hstatrd, hcmd86⟩ := hi
  cases i with
  | idread x y => exact absurd rfl (hidread x y)
  | bkrd x y z => exact absurd rfl (hbkrd x y z)
  | statrd x y z => exact absurd rfl (hstatrd x y z)
  | cmd86 x y z => exact absurd rfl (hcmd86 x y z)
  | setoff | bkwr | cmd05 | cmd83 | cmd87 | irqarm | irqclr | irqctl | unknown =>
    cases he; exact runCommand_of_five_le _ _ _ _ _ _ hr hp

/-- Settles O39: the opcodes left are those of the commands without a continuation. -/
theorem continuationFaultsWithoutAContinuation : Obligations.ContinuationFaultsWithoutAContinuation :=
  fun _ _ _ _ _ _ hwf he h0 h3 h82 h86 hr hp =>
    exec_eq_continuationFault he ((noContinuation_iff hwf he).2 ⟨h0, h3, h82, h86⟩) hr hp

/-! ### The latch and the notifications (R101, R116) -/

/-- Settles O45: the effects on the latch, a well-formed IRQCTL having none; a fault has none. -/
theorem onlyLatchCommandsChangeTheLatch : Obligations.OnlyLatchCommandsChangeTheLatch := by
  intro i s t hwf h
  obtain ⟨_, ⟨u, b, he, rfl⟩ | ⟨_, _, _, _, _, _, _, rfl⟩⟩ := exec_next h
  · obtain hl | ⟨hp, hi, hl⟩ | ⟨hp, hi, hl⟩ | ⟨hp, hi, hl⟩ | ⟨_, a, b', c, rfl, hl⟩ := he.latch
    · exact .inl hl
    · exact .inr (.inr (.inr ⟨hp, hi, hl⟩))
    · exact .inr (.inl ⟨hp, hi, hl⟩)
    · exact .inr (.inr (.inl ⟨hp, hi, hl⟩))
    · have hsel : ¬(a = 0x00 ∧ b' = 0x00) ∧ ¬(a = 0x02 ∧ b' = 0x01) := by
        simpa only [Instr.wf, namedSelector, Bool.not_eq_true', Bool.or_eq_false_iff, Bool.and_eq_false_iff,
          beq_eq_false_iff_ne, ← not_and_or] using hwf
      exact .inl (hl.trans (selectLatch_of_not_named _ hsel.1 hsel.2))
  · exact .inl rfl

@[simp] theorem notifications_append_notify (l : List Event) : notifications (l ++ [.notify]) = notifications l + 1 := by
  simp [notifications]

@[simp] theorem notifications_append_diag (l : List Event) (d : Diagnostic) :
    notifications (l ++ [.diag d]) = notifications l := by
  simp [notifications]

/-- The commands of opcode 0xFF that the table lists (R92). -/
def IsIrqCommand (i : Instr) : Prop := (encode i).head? = some 0xFF ∧ ∀ o a b c, i ≠ .unknown o a b c

theorem not_isIrqCommand {i : Instr} (h : Silent i = true ∨ (reported i).isSome = true) : ¬IsIrqCommand i := by
  rintro ⟨hhead, hlisted⟩
  cases i with
  | unknown o a b c => exact hlisted o a b c rfl
  | irqarm | irqclr | irqctl | setoff | bkwr => simp [Silent, reported] at h
  | idread | bkrd | cmd05 | statrd | cmd83 | cmd86 | cmd87 => simp [encode] at hhead

/-- A command's effect makes one notification where it is an opcode-0xFF command at position 4, and none elsewhere. -/
theorem Effect.notifications {i : Instr} {s u : State} (h : Effect i s u) :
    ((s.engine.position = 4 ∧ IsIrqCommand i) ∧ Machine.notifications u.events = Machine.notifications s.events + 1) ∨
    (¬(s.engine.position = 4 ∧ IsIrqCommand i) ∧ Machine.notifications u.events = Machine.notifications s.events) := by
  cases h with
  | nothing _ _ h =>
    refine .inr ⟨fun ⟨hp, hi⟩ => ?_, rfl⟩
    obtain hp' | hsilent := h
    · exact hp' hp
    · exact not_isIrqCommand (.inl hsilent) hi
  | mismatch => exact .inr ⟨by omega, notifications_append_diag _ _⟩
  | report _ _ d _ hd =>
    exact .inr ⟨fun ⟨_, hi⟩ => not_isIrqCommand (.inr (by simp [hd])) hi, notifications_append_diag _ _⟩
  | arm _ _ hp | clear _ _ hp | control _ _ _ _ hp => exact .inl ⟨⟨hp, rfl, nofun⟩, notifications_append_notify _⟩
  | seek | write | status => exact .inr ⟨by simp [IsIrqCommand, encode], rfl⟩
  | read => rw [storeRead_eq]; exact .inr ⟨by simp [IsIrqCommand, encode], rfl⟩

/-- Settles O46: an answer changes no event, and a fault, above position 4, makes no notification. -/
theorem onlyIrqCommandsNotify : Obligations.OnlyIrqCommandsNotify := by
  intro i s t h
  obtain ⟨_, ⟨u, b, he, rfl⟩ | ⟨_, _, _, _, _, _, hp, rfl⟩⟩ := exec_next h
  · obtain ⟨hi, hn⟩ | ⟨hi, hn⟩ := he.notifications <;> unfold IsIrqCommand at hi
    · rw [if_pos hi]; exact hn
    · rw [if_neg hi]; exact hn
  · rw [if_neg (by omega)]; rfl

end Sys2Proof.Machine
end

section
/-! PROOFS of the statements about the other operations (spec/10_state.md R32, spec/40_engine.md R62,
spec/42_interrupt_latch.md, spec/43_snapshot.md, spec/60_exceptions.md R109, R110, spec/70_reset_and_hazards.md): when an
operation stops, chip-select, snapshots, the lifecycle, and the decay of the latch. -/

namespace Sys2Proof.Machine

/-! ### When an operation stops (R109, R110, R123, R124) -/

theorem whileLive_of_fault {s : State} {f : FaultReason} (r : Result) (hp : s.present = true) (hf : s.fault = some f) :
    whileLive s r = .fault (.stuck f) := by
  simp [whileLive, hp, hf]

theorem whileLive_of_absent {s : State} (r : Result) (hp : s.present = false) : whileLive s r = .refused .noDevice := by
  simp [whileLive, hp]

/-- Every operation but the two of the lifecycle runs under the condition of R109. -/
theorem operate_eq_whileLive {op : Operation} (ht : op ≠ .teardown) (hc : ∀ opens, op ≠ .construct opens) :
    ∃ f : State → Result, ∀ s, operate op s = whileLive s (f s) := by
  cases op with
  | teardown => exact absurd rfl ht
  | construct opens => exact absurd rfl (hc opens)
  | chipSelect | exchange | poll | save | restore => exact ⟨_, fun _ => rfl⟩

/-- Settles O40: an idle step looks at the fault, and so does every operation but the lifecycle's; construction refuses a
constructed device before it looks at anything else. -/
theorem faultedDeviceIsStuck : Obligations.FaultedDeviceIsStuck := by
  refine ⟨fun s r hp hf ht hc => ?_, fun s opens rest hp hl => ?_⟩
  · cases hl : s.pending with
    | nil => rw [step_nil hl, idle, hf]
    | cons op rest =>
      rw [hl] at ht hc
      obtain ⟨f, hop⟩ := operate_eq_whileLive (op := op) (fun h => ht (congrArg some h))
        fun opens h => hc opens (congrArg some h)
      rw [step_cons hl, hop]
      exact whileLive_of_fault (s := s.withPending rest) _ hp hf
  · rw [step_cons hl]
    exact if_pos hp

/-- Settles O41: a finite counter is full where the next position does not fit; no device is neither live nor torn down. -/
theorem refusedWithoutRoomOrDevice : Obligations.RefusedWithoutRoomOrDevice := by
  refine ⟨fun s x w hl hw hp => ?_, fun s op hp hc => ?_⟩
  · have hfull : Params.full s.params s.engine.position = true := by simpa [Params.full, hw] using hp
    exact (whileLive_of_live _ hl).trans (if_pos hfull)
  · by_cases ht : op = .teardown
    · subst ht; simp [operate, teardown, hp]
    · obtain ⟨f, hop⟩ := operate_eq_whileLive ht hc
      rw [hop, whileLive_of_absent _ hp]

/-! ### Chip-select and the snapshots (R62, R63, R103, R104) -/

/-- Settles O8: chip-select under the condition of R109. -/
theorem chipSelectResetsOnlyPosition : Obligations.ChipSelectResetsOnlyPosition := fun _ hp =>
  ⟨fun hf => ⟨whileLive_of_live _ ⟨hp, hf⟩, whileLive_of_live _ ⟨hp, hf⟩⟩, fun _ _ hf => whileLive_of_fault _ hp hf⟩

/-- Settles O47: Save on a live device is the reply of its tuple. -/
theorem saveReturnsTheTuple : Obligations.SaveReturnsTheTuple := fun _ hl => whileLive_of_live _ hl

/-- Settles O48: Restore on a live device, by `SNAPSHOT_FULL`. -/
theorem restoreWritesOnlyItsFields : Obligations.RestoreWritesOnlyItsFields := by
  refine fun s t hl => ⟨fun hfull => ?_, fun e hfull he => ?_⟩
  · exact (whileLive_of_live _ hl).trans (by simp only [hfull]; rfl)
  · exact (whileLive_of_live _ hl).trans (by simp only [hfull, he]; rfl)

/-! ### Construction and teardown (R32, R123, R124) -/

theorem operate_construct_of_absent {s : State} (hp : s.present = false) :
    operate (.construct true) s =
      .next (freshDevice true ⟨s.file.getD Blob.empty, some 0⟩ (some (s.file.getD Blob.empty)) s) :=
  if_neg (by simp [hp])

theorem operate_teardown {s : State} (hp : s.present = true) :
    operate .teardown s = .next
      (freshDevice false ⟨Blob.empty, none⟩ (if s.fault.isNone then (storeFlush s).file else s.file) s) :=
  if_pos hp

/-- Settles O5: the fields of the constructed state, which holds an empty blob where there was no file. -/
theorem constructionLeavesTheResetValues : Obligations.ConstructionLeavesTheResetValues := by
  refine ⟨fun q file => ⟨_, rfl, rfl, fun k => ?_, rfl, rfl, rfl, rfl, rfl, ?_, ?_, rfl, rfl⟩, rfl⟩
  · show CmdBuffer.empty.get k = none
    unfold CmdBuffer.get
    split <;> rfl
  · rintro rfl
    exact ⟨rfl, fun a => if_neg (Nat.not_lt_zero a)⟩
  · rintro b rfl
    rfl

/-- Settles O6: construction of an absent device, by whether `open` succeeds. -/
theorem constructionOpensTheStoreFile : Obligations.ConstructionOpensTheStoreFile := fun _ hp =>
  ⟨operate_construct_of_absent hp, if_neg (by simp [hp])⟩

/-- Settles O7: teardown flushes a live device's store into the file and leaves a faulted one's file; construction opens that
file. -/
theorem storeContentsSurvivePowerOff : Obligations.StoreContentsSurvivePowerOff := by
  refine ⟨fun s ⟨hp, hf⟩ => ⟨_, _, operate_teardown hp, rfl, ?_, operate_construct_of_absent rfl, ?_, ⟨rfl, rfl⟩, rfl, rfl,
      rfl, rfl⟩,
    fun s r hp hf => ⟨_, _, operate_teardown hp, rfl, rfl, ?_, operate_construct_of_absent rfl, ?_, rfl, rfl⟩⟩
  all_goals simp [freshDevice, storeFlush, hf, Blob.empty]

/-- Settles O55: the construction values on an empty store, with nothing pending. -/
theorem resetMeetsTheInvariants : Obligations.ResetMeetsTheInvariants := by
  refine ⟨⟨rfl, ?_⟩, ⟨headerHeld_zero _, nofun⟩, fun _ => rfl, ⟨rfl, .inl rfl⟩, ⟨nofun, Nat.zero_le 5, nofun⟩, nofun,
    ⟨rfl, rfl⟩, rfl⟩
  rintro b ⟨⟩
  exact Blob.empty_wf

/-! ### The decay of the latch (R23, R24, R98, R99) -/

theorem operate_poll_of_live {s : State} (h : s.Live) :
    operate .poll s = .next { s with latch := s.latch.polled, replies := s.replies ++ [.irq s.latch.haveIrq] } :=
  whileLive_of_live _ h

theorem Latch.polled_of_set {l : Latch} (h : l.haveIrq = true) :
    l.polled = ⟨decide (l.irqTimer + 1 ≤ irqDecayLimit), l.irqTimer + 1, l.irqStatus⟩ := if_pos h

theorem Latch.polled_of_clear {l : Latch} (h : l.haveIrq = false) : l.polled = l := if_neg (by simp [h])

/-- Settles O42: a poll of the set flag, of the clear flag, and of a faulted device. -/
theorem pollReportsThenDecays : Obligations.PollReportsThenDecays := by
  refine fun s hp => ⟨fun hf => ⟨fun hset => ?_, fun hclear => ?_⟩, fun r hf => whileLive_of_fault _ hp hf⟩
  · rw [operate_poll_of_live ⟨hp, hf⟩, Latch.polled_of_set hset, hset]
    simp [irqDecayLimit]
  · rw [operate_poll_of_live ⟨hp, hf⟩, Latch.polled_of_clear hclear, hclear]

/-- The latch `k` polls after it was armed. -/
def decayed (status : Byte) (k : Nat) : Latch := ⟨decide (k < 5), min k 5, status⟩

theorem decayed_zero {l : Latch} (hset : l.haveIrq = true) (htimer : l.irqTimer = 0) : decayed l.irqStatus 0 = l := by
  obtain ⟨_, _, _⟩ := l
  cases hset
  cases htimer
  rfl

theorem decayed_polled (status : Byte) (k : Nat) : (decayed status k).polled = decayed status (k + 1) := by
  by_cases hk : k < 5
  · rw [Latch.polled_of_set (decide_eq_true hk)]
    have hmin : min k 5 = k := by omega
    have hmin' : min (k + 1) 5 = k + 1 := by omega
    simp [decayed, hmin, hmin', irqDecayLimit, Nat.lt_succ_iff]
  · rw [Latch.polled_of_clear (decide_eq_false hk)]
    have hmin : min k 5 = 5 := by omega
    have hmin' : min (k + 1) 5 = 5 := by omega
    simp only [decayed, hmin, hmin', hk, show ¬k + 1 < 5 by omega]

/-- `n` polls of a latch that was armed `k` polls ago. -/
theorem runs_polls {status : Byte} (n : Nat) : ∀ {s : State} {k : Nat} {rest : List Operation}, s.Live →
    s.latch = decayed status k → s.pending = List.replicate n .poll ++ rest →
    runs n s = .next
      { s with
        latch := decayed status (k + n)
        pending := rest
        replies := s.replies ++ (List.range' k n).map fun j => .irq (decide (j < 5)) } := by
  induction n with
  | zero =>
    intro s k rest _ hlatch hpend
    subst hpend
    simp [runs_zero, ← hlatch]
  | succ n ih =>
    intro s k rest hlive hlatch hpend
    have hstep : step s = .next
        { s with
          latch := decayed status (k + 1)
          pending := List.replicate n .poll ++ rest
          replies := s.replies ++ [.irq (decide (k < 5))] } := by
      rw [step_cons hpend]
      refine (operate_poll_of_live (s := s.withPending (List.replicate n .poll ++ rest)) hlive).trans ?_
      rw [State.withPending_latch, hlatch, decayed_polled]; rfl
    rw [runs_of_step n hstep, ih (s := { s with
      latch := decayed status (k + 1)
      pending := List.replicate n .poll ++ rest
      replies := s.replies ++ [.irq (decide (k < 5))] }) hlive rfl rfl]
    simp [List.range'_succ, Nat.add_assoc, Nat.add_comm 1 n]

/-- Settles O43: a freshly armed latch is one that was armed no polls ago. -/
theorem latchDecaysAfterFivePolls : Obligations.LatchDecaysAfterFivePolls := by
  intro s n rest hlive hset htimer hpend
  rw [runs_polls n hlive (decayed_zero hset htimer).symm hpend, Nat.zero_add, ← List.range_eq_range']
  rfl

/-- Settles O44: while the flag is set, a cap of 7 or more is above the limit of the decay. -/
theorem saturatingCounterIsEquivalent : Obligations.SaturatingCounterIsEquivalent := by
  intro l w hw
  have hcap : 2 ^ 3 ≤ 2 ^ w := Nat.pow_le_pow_right (by decide) hw
  unfold saturatingPoll
  generalize 2 ^ w = cap at hcap
  cases hset : l.haveIrq with
  | true =>
    have htimer : min (min l.irqTimer (cap - 1) + 1) (cap - 1) = min (l.irqTimer + 1) (cap - 1) := by omega
    have hflag : min (l.irqTimer + 1) (cap - 1) ≤ irqDecayLimit ↔ l.irqTimer + 1 ≤ irqDecayLimit := by
      unfold irqDecayLimit; omega
    simp only [Latch.polled_of_set hset, if_true, htimer, hflag]
  | false => simp only [Latch.polled_of_clear hset, Bool.false_eq_true, if_false, hset]

end Sys2Proof.Machine
end

section
/-! PROOFS of the checksum's statements (spec/40_engine.md R70, R71): the loop as a left-aligned shift register, its linearity,
and what it does to each byte. -/

namespace Sys2Proof.Machine

/-! ### The loop as a shift register -/

/-- One round of R70 with the word kept left-aligned: bit 31 is tested and shifted out. -/
def registerBit (w : Word) : Word := (if w.msb then w ^^^ csPolyInit else w) <<< 1

theorem shiftLeft_ushiftRight_of_msb_eq_false {w : Word} (h : w.msb = false) : (w <<< 1) >>> 1 = w := by
  rw [BitVec.msb_eq_getLsbD_last] at h
  apply BitVec.eq_of_getLsbD_eq
  intro i hi
  rw [BitVec.getLsbD_ushiftRight, BitVec.getLsbD_shiftLeft]
  by_cases hlast : i = 31
  · rw [hlast]; exact h.symm
  · simp [show 1 + i < 32 by omega]

/-- Round `i` on the word shifted right by `i` is a round of the register. -/
theorem checksumRound_ushiftRight (w : Word) {i : Nat} (hi : i < 32) :
    checksumRound (w >>> i) i = registerBit w >>> (i + 1) := by
  have hmsb : (w >>> i).getLsbD (31 - i) = w.msb := by
    rw [BitVec.getLsbD_ushiftRight, BitVec.msb_eq_getLsbD_last]
    congr 1; omega
  have hclear : (if w.msb then w ^^^ csPolyInit else w).msb = false := by
    cases h : w.msb with
    | true => simp [BitVec.msb_xor, h]; rfl
    | false => simpa using h
  rw [checksumRound, hmsb, registerBit, Nat.add_comm, BitVec.shiftRight_add, shiftLeft_ushiftRight_of_msb_eq_false hclear]
  split
  · rw [BitVec.ushiftRight_xor_distrib]
  · rfl

theorem foldl_checksumRound (n : Nat) (w : Word) : n ≤ 32 →
    (List.range n).foldl checksumRound w = Nat.repeat registerBit n w >>> n := by
  induction n with
  | zero => simp [Nat.repeat]
  | succ n ih =>
    intro hn
    rw [List.range_succ, List.foldl_append, ih (by omega)]
    exact checksumRound_ushiftRight _ (by omega)

theorem checksumWord_eq_frameWord (b0 b1 b2 : Byte) : checksumWord b0 b1 b2 = frameWord b0 b1 b2 0x00 := by
  simp [checksumWord, frameWord]

theorem checksumFinal_eq_register (b0 b1 b2 : Byte) :
    checksumFinal b0 b1 b2 = Nat.repeat registerBit 24 (frameWord b0 b1 b2 0x00) >>> 24 := by
  have hloop := checksumLoop_eq_foldl 24 0 (checksumWord b0 b1 b2) (by decide)
  rw [BitVec.ushiftRight_zero, BitVec.ushiftRight_zero, ← List.range_eq_range', foldl_checksumRound _ _ (by decide)] at hloop
  rw [checksumFinal, hloop, checksumWord_eq_frameWord]

/-! ### Linearity -/

theorem registerBit_xor (v w : Word) : registerBit (v ^^^ w) = registerBit v ^^^ registerBit w := by
  unfold registerBit
  rw [BitVec.msb_xor, ← BitVec.shiftLeft_xor_distrib]
  congr 1
  cases v.msb <;> cases w.msb
  · rfl
  · exact BitVec.xor_assoc _ _ _
  · show v ^^^ w ^^^ csPolyInit = v ^^^ csPolyInit ^^^ w
    ac_rfl
  · show v ^^^ w = v ^^^ csPolyInit ^^^ (w ^^^ csPolyInit)
    rw [BitVec.xor_assoc, BitVec.xor_comm w, ← BitVec.xor_assoc csPolyInit, BitVec.xor_self, BitVec.zero_xor]

theorem repeat_registerBit_xor (n : Nat) (v w : Word) :
    Nat.repeat registerBit n (v ^^^ w) = Nat.repeat registerBit n v ^^^ Nat.repeat registerBit n w := by
  induction n with
  | zero => rfl
  | succ n ih => rw [Nat.repeat, ih, registerBit_xor]; rfl

/-- Settles O19: the register is linear, and so are the packing of the bytes and the two shifts that read the low byte. -/
theorem checksumIsLinear : Obligations.ChecksumIsLinear := by
  intro a0 a1 a2 b0 b1 b2
  have hword : frameWord (a0 ^^^ b0) (a1 ^^^ b1) (a2 ^^^ b2) 0x00 = frameWord a0 a1 a2 0x00 ^^^ frameWord b0 b1 b2 0x00 :=
    frameWord_xor a0 a1 a2 0x00 b0 b1 b2 0x00
  simp only [checksum, checksumFinal_eq_register, hword, repeat_registerBit_xor, BitVec.ushiftRight_xor_distrib,
    BitVec.extractLsb'_xor]

/-! ### The register byte by byte -/

theorem frameWord_msb (o a b c : Byte) : (frameWord o a b c).msb = o.msb := by
  rw [BitVec.msb_eq_getLsbD_last, BitVec.msb_eq_getLsbD_last, frameWord_getLsbD]; rfl

theorem frameWord_shiftLeft_top (r : Byte) : frameWord r 0x00 0x00 0x00 <<< 1 = frameWord (r <<< 1) 0x00 0x00 0x00 := by
  apply BitVec.eq_of_getLsbD_eq
  intro i hi
  simp only [BitVec.getLsbD_shiftLeft, frameWord_getLsbD]
  grind

/-- The top byte alone is a register of the CRC-8. -/
theorem registerBit_top (r : Byte) : registerBit (frameWord r 0x00 0x00 0x00) = frameWord (crcBit r) 0x00 0x00 0x00 := by
  have hpoly : csPolyInit <<< 1 = frameWord 0x1B 0x00 0x00 0x00 := by decide
  unfold registerBit crcBit
  rw [frameWord_msb]
  split
  · rw [BitVec.shiftLeft_xor_distrib, frameWord_shiftLeft_top, hpoly, ← frameWord_xor]; rfl
  · exact frameWord_shiftLeft_top r

theorem repeat_registerBit_top (n : Nat) (r : Byte) :
    Nat.repeat registerBit n (frameWord r 0x00 0x00 0x00) = frameWord (Nat.repeat crcBit n r) 0x00 0x00 0x00 := by
  induction n with
  | zero => rfl
  | succ n ih => rw [Nat.repeat, ih, registerBit_top]; rfl

/-- The lower bytes move up. -/
theorem repeat_registerBit_low (b c d : Byte) (n : Nat) (hn : n ≤ 8) :
    Nat.repeat registerBit n (frameWord 0x00 b c d) = frameWord 0x00 b c d <<< n := by
  induction n with
  | zero => simp [Nat.repeat]
  | succ n ih =>
    have hmsb : (frameWord 0x00 b c d <<< n).msb = false := by
      rw [BitVec.msb_eq_getLsbD_last, BitVec.getLsbD_shiftLeft, frameWord_getLsbD]
      grind
    rw [Nat.repeat, ih (by omega), registerBit, hmsb, BitVec.shiftLeft_add]; rfl

theorem frameWord_shiftLeft_eight (b c d : Byte) : frameWord 0x00 b c d <<< 8 = frameWord b c d 0x00 := by
  apply BitVec.eq_of_getLsbD_eq
  intro i hi
  simp only [BitVec.getLsbD_shiftLeft, frameWord_getLsbD]
  grind

/-- Eight rounds take the next byte into the CRC-8 register. -/
theorem repeat_registerBit_eight (r b c d : Byte) :
    Nat.repeat registerBit 8 (frameWord r b c d) = frameWord (Nat.repeat crcBit 8 r ^^^ b) c d 0x00 := by
  have hsplit : frameWord r b c d = frameWord r 0x00 0x00 0x00 ^^^ frameWord 0x00 b c d := by
    rw [← frameWord_xor]; simp
  rw [hsplit, repeat_registerBit_xor, repeat_registerBit_top, repeat_registerBit_low _ _ _ _ le_rfl, frameWord_shiftLeft_eight,
    ← frameWord_xor]
  simp

theorem repeat_add {α : Type} (f : α → α) (m n : Nat) (a : α) : Nat.repeat f (m + n) a = Nat.repeat f m (Nat.repeat f n a) := by
  induction m with
  | zero => rw [Nat.zero_add]; rfl
  | succ m ih => rw [Nat.succ_add, Nat.repeat, ih]; rfl

theorem frameWord_ushiftRight (r : Byte) : frameWord r 0x00 0x00 0x00 >>> 24 = r.setWidth 32 := by
  apply BitVec.eq_of_getLsbD_eq
  intro i hi
  simp only [BitVec.getLsbD_ushiftRight, BitVec.getLsbD_setWidth, frameWord_getLsbD]
  grind

/-- Settles O20: three times eight rounds, each taking one byte in. -/
theorem checksumIsTheCrcEight : Obligations.ChecksumIsTheCrcEight := by
  intro b0 b1 b2
  rw [checksumFinal_eq_register, show 24 = 8 + (8 + 8) from rfl, repeat_add, repeat_add, repeat_registerBit_eight,
    repeat_registerBit_eight, repeat_registerBit_eight, frameWord_ushiftRight]
  simp [crc8, crcByte]

end Sys2Proof.Machine
end

section
/-! PROOFS of the engine's statements about one exchange and about whole transactions (spec/40_engine.md, spec/41_commands.md,
spec/70_reset_and_hazards.md R127 to R129). -/

namespace Sys2Proof.Machine

/-! ### One exchange (R65, R67, R75, R80) -/

/-- The buffer after an exchange's capture, from position 3 on. -/
theorem capture_cmd_of_three_le {s : State} (x : Byte) (hp : 3 ≤ s.engine.position) :
    (capture x s).engine.cmd = if s.engine.position = 3 then s.engine.cmd.set 3 x else s.engine.cmd := by
  rw [capture_engine]
  by_cases h3 : s.engine.position = 3
  · simp [h3]
  · simp [h3, show ¬s.engine.position < 4 by omega]

/-- Settles O13: after the capture the buffer holds the header, and reading it draws nothing. -/
theorem stepRunsTheDecodedCommand : Obligations.StepRunsTheDecodedCommand := by
  intro s x o a b c rest i hr hp hpend hheader hdecode
  have hcmd : (capture x (s.withPending rest)).engine.cmd = CmdBuffer.ofHeader o a b c :=
    (capture_cmd_of_three_le x (s := s.withPending rest) hp).trans hheader
  have hcap : capture x (s.withPending rest) =
      { s with engine := ⟨s.engine.position, CmdBuffer.ofHeader o a b c⟩, pending := rest } := by
    rw [capture_eq, hcmd]; rfl
  have hpos : 3 ≤ (capture x (s.withPending rest)).engine.position := hp.trans_eq (capture_position x (s.withPending rest)).symm
  rw [step_exchange hr hpend, exchangeBody_of_three_le hpos, afterHeader_of_cmd hcmd,
    fetchCommand_of_cmd hcmd, hcap]
  cases hdecode
  rfl

/-- Settles O15: from position 4 on the capture leaves the state, and nothing else uses the byte. -/
theorem inputIsIgnoredFromPositionFour : Obligations.InputIsIgnoredFromPositionFour := by
  intro s x y hp
  simp only [operate, exchange, capture_of_four_le _ hp]

theorem operated_of_step {s t : State} {op : Operation} {rest : List Operation} (hl : s.pending = op :: rest)
    (h : step s = .next t) : Operated op (s.withPending rest) t :=
  operate_next ((step_cons hl).symm.trans h)

/-- Settles O16: an exchange ends in an effect and one answer, or in the continuation fault. -/
theorem exchangeAdvancesOrFaults : Obligations.ExchangeAdvancesOrFaults := by
  intro s t x rest hl h
  have ho := operated_of_step hl h
  have hpending : t.pending = rest := ho.params_pending.2
  obtain ⟨⟨hlive, _⟩, u, hu, ⟨v, b, he, rfl⟩ | ⟨o, _, _, _, _, _, _, rfl⟩⟩ := ho.exchange
  · obtain ⟨hengine, hfault, hpresent, _, _, hreplies⟩ := he.frame
    obtain ⟨_, _, hfault', _, _, _, hpresent', _, _, hreplies'⟩ := hu.frame
    refine ⟨hlive, hpending, hpresent.trans (hpresent'.trans hlive.1),
      .inl ⟨hfault.trans (hfault'.trans hlive.2), ?_, b, ?_⟩⟩
    · rw [State.answered_engine, hengine]
      exact congrArg (· + 1) hu.position
    · rw [State.answered_replies, hreplies, hreplies']; rfl
  · obtain ⟨_, hlatch, _, hstore, hevents, _, hpresent, _, _, hreplies⟩ := hu.frame
    exact ⟨hlive, hpending, hpresent.trans hlive.1, .inr ⟨nofun, hu.position, hreplies, hstore, hlatch, hevents⟩⟩

/-- The checksum byte of the command that position 3 checks is the byte captured there. -/
theorem encode_fetchCommand_capture {s : State} {x o a b c : Byte} (hp : s.engine.position = 3)
    (he : encode (fetchCommand (capture x s)) = [o, a, b, c]) : c = x := by
  rw [encode_fetchCommand] at he
  simp only [List.cons.injEq] at he
  obtain ⟨_, _, _, hc, _⟩ := he
  have hget : (capture x s).engine.cmd.get 3 = some x := by
    rw [capture_cmd_of_three_le x hp.ge, if_pos hp]
    exact CmdBuffer.get_set_same _ x (by decide)
  exact hc.symm.trans (headerByte_of_get hget)

/-- Settles O17: before position 4 an effect is nothing, or the mismatch of position 3, and no command faults. -/
theorem headerAloneDoesNothing : Obligations.HeaderAloneDoesNothing := by
  intro s t x rest hl hp h
  obtain ⟨⟨⟨_, hfault⟩, _⟩, u, hu, ⟨v, b, he, rfl⟩ | ⟨_, _, _, _, _, _, hp5, _⟩⟩ := (operated_of_step hl h).exchange
  · obtain ⟨hoffset, hlatch, hfault', hstore, hevents, hfile, _⟩ := hu.frame
    have hposition : u.engine.position = s.engine.position := hu.position
    obtain rfl | ⟨h3, o, a, b', c, henc, rfl⟩ := he.of_lt (hposition.trans_lt hp)
    · exact ⟨hoffset, hlatch, hfault'.trans hfault, hstore, hfile, congrArg notifications hevents, .inl hevents⟩
    · have hp3 : s.engine.position = 3 := hposition.symm.trans h3
      cases encode_fetchCommand_capture (s := s.withPending rest) hp3 henc
      refine ⟨hoffset, hlatch, hfault'.trans hfault, hstore, hfile, ?_, .inr ⟨hp3, checksum o a b', ?_⟩⟩
      · exact (notifications_append_diag _ _).trans (congrArg notifications hevents)
      · exact congrArg (· ++ _) hevents
  · have hposition : u.engine.position = s.engine.position := hu.position
    omega

/-! ### Runs of several steps (R61) -/

theorem runs_add (m n : Nat) (s : State) : runs (m + n) s = andThen (runs m s) (runs n) := by
  induction m generalizing s with
  | zero => rw [Nat.zero_add]; rfl
  | succ m ih =>
    rw [Nat.succ_add, runs_succ, runs_succ]
    cases step s with
    | next t => exact ih t
    | fault f => rfl
    | refused f => rfl

theorem runs_of_runs {m : Nat} {s t : State} (n : Nat) (h : runs m s = .next t) : runs (m + n) s = runs n t := by
  rw [runs_add, h]; rfl

theorem runs_of_step_runs {n : Nat} {s t : State} {r : Result} (hstep : step s = .next t) (h : runs n t = r) :
    runs (n + 1) s = r :=
  (runs_of_step n hstep).trans h

theorem runs_one (s : State) : runs 1 s = step s := by
  rw [runs_succ]
  cases step s <;> rfl

theorem step_chipSelect {s : State} {rest : List Operation} (hl : s.Live) (hpend : s.pending = .chipSelect true :: rest) :
    step s = .next { s with engine := ⟨0, s.engine.cmd⟩, pending := rest } :=
  (step_cons hpend).trans (whileLive_of_live (s := s.withPending rest) _ hl)

/-- Chip-select and the first two header bytes. -/
theorem runs_two_header_bytes {s : State} {o a : Byte} {rest : List Operation} (hl : s.Live) (hw : s.params.posWidth = none)
    (hpend : s.pending = .chipSelect true :: .exchange o :: .exchange a :: rest) :
    runs 3 s = .next
      { s with
        engine := ⟨2, ⟨some o, some a, s.engine.cmd.b2, s.engine.cmd.b3⟩⟩
        pending := rest
        replies := s.replies ++ [.byte 0xFF, .byte 0xFF] } := by
  refine runs_of_step_runs (step_chipSelect hl hpend) ?_
  refine runs_of_step_runs (gapCapturesAndAnswersFF _ o o a _ (by exact ready_of_unbounded hl hw) rfl (.inl Nat.zero_lt_two)) ?_
  refine runs_of_step_runs (gapCapturesAndAnswersFF _ a o a _ (by exact ready_of_unbounded hl hw) rfl (.inl Nat.one_lt_two)) ?_
  simp [runs_zero, CmdBuffer.set]

/-! ### The identification read (R68) -/

/-- `n` exchanges of an identification read from position `p` on. -/
theorem runs_identification (inputs : List Byte) : ∀ {s : State} {rest : List Operation}, s.Live →
    s.params.posWidth = none → 2 ≤ s.engine.position → s.engine.cmd.get 0 = some 0x00 → s.engine.cmd.get 1 = some 0x00 →
    s.pending = inputs.map Operation.exchange ++ rest →
    ∃ cmd : CmdBuffer, runs inputs.length s = .next
      { s with
        engine := ⟨s.engine.position + inputs.length, cmd⟩
        pending := rest
        replies := s.replies ++ (List.range' (s.engine.position - 2) inputs.length).map fun k =>
          .byte (([0x06, 0x04, 0x10, 0x00] : List Byte).getD (k % 4) 0x00) } := by
  induction inputs with
  | nil =>
    intro s rest _ _ _ _ _ hpend
    have hrest : s.pending = rest := hpend
    exact ⟨s.engine.cmd, by simp [runs_zero, ← hrest]⟩
  | cons x inputs ih =>
    intro s rest hl hw hp h0 h1 hpend
    have hstep := identificationReadAtEveryPosition s x _ (ready_of_unbounded hl hw) hpend hp h0 h1
    have h0' := capture_get_of_ne x h0 (show 0 ≠ s.engine.position by omega)
    have h1' := capture_get_of_ne x h1 (show 1 ≠ s.engine.position by omega)
    rw [capture_engine] at h0' h1'
    obtain ⟨cmd, hruns⟩ := ih (s := { s with
      engine := ⟨s.engine.position + 1,
          if s.engine.position < 4 then s.engine.cmd.set s.engine.position x else s.engine.cmd⟩
      pending := inputs.map Operation.exchange ++ rest
      replies := s.replies ++
          [Reply.byte (([0x06, 0x04, 0x10, 0x00] : List Byte).getD ((s.engine.position - 2) % 4) 0x00)] })
      hl hw (Nat.le_succ_of_le hp) h0' h1' rfl
    refine ⟨cmd, (runs_of_step inputs.length hstep).trans (hruns.trans ?_)⟩
    have hpos : s.engine.position + 1 - 2 = s.engine.position - 2 + 1 := by omega
    simp [List.range'_succ, hpos, Nat.add_assoc, Nat.add_comm 1]

/-- Settles O11: after chip-select and two zero bytes, every exchange is one of the identification read. -/
theorem identificationReadRepeatsForever : Obligations.IdentificationReadRepeatsForever := by
  intro s inputs rest hl hw hpend
  obtain ⟨cmd, hruns⟩ := runs_identification inputs (s := { s with
    engine := ⟨2, ⟨some 0x00, some 0x00, s.engine.cmd.b2, s.engine.cmd.b3⟩⟩
    pending := inputs.map Operation.exchange ++ rest
    replies := s.replies ++ [.byte 0xFF, .byte 0xFF] }) hl hw le_rfl rfl rfl rfl
  refine ⟨cmd, ?_⟩
  rw [runs_of_runs inputs.length (runs_two_header_bytes hl hw hpend), hruns, Nat.sub_self, ← List.range_eq_range']

/-! ### A transaction (R61, R65, R129) -/

/-- Chip-select and a whole header: four answers of 0xFF and the header check (R69). -/
theorem runs_header {s : State} {o a b c : Byte} {rest : List Operation} (hl : s.Live) (hw : s.params.posWidth = none)
    (hoa : ¬(o = 0x00 ∧ a = 0x00))
    (hpend : s.pending = .chipSelect true :: .exchange o :: .exchange a :: .exchange b :: .exchange c :: rest) :
    runs 5 s = .next { atDispatch o a b c s with pending := rest } := by
  refine (runs_of_runs 2 (runs_two_header_bytes hl hw hpend)).trans ?_
  refine runs_of_step_runs
    (gapCapturesAndAnswersFF _ b o a _ (by exact ready_of_unbounded hl hw) rfl (.inr ⟨rfl, rfl, rfl, hoa⟩)) ?_
  refine runs_of_step_runs
    (positionThreeOnlyChecksTheHeader _ o a b c _ (by exact ready_of_unbounded hl hw) rfl rfl rfl rfl rfl hoa) ?_
  simp [runs_zero, atDispatch, CmdBuffer.ofHeader, checkEvents]

/-- Settles O14: the header's five steps, and the dispatch of the command read from the buffer. -/
theorem transactionDispatchesItsCommand : Obligations.TransactionDispatchesItsCommand := by
  intro s o a b c d rest hl hw hoa hpend
  rw [show 6 = 5 + 1 from rfl, runs_of_runs 1 (runs_header hl hw hoa hpend), runs_one]
  exact stepRunsTheDecodedCommand _ d o a b c rest _ (by exact ready_of_unbounded hl hw) (Nat.le_succ 3) rfl rfl rfl

/-! ### The round trip through the store (R129) -/

/-- A live device with an unbounded counter, these operations pending, and this store and store file. -/
def State.Awaits (s : State) (l : List Operation) (store : Store) (file : Option Blob) : Prop :=
  s.Live ∧ s.params.posWidth = none ∧ s.pending = l ∧ s.store = store ∧ s.file = file

section Transaction
variable {s : State} {a b c d : Byte} {rest : List Operation} {blob : Blob} {cursor : Option Nat} {file : Option Blob}

/-- The transaction of SETOFF moves the cursor (R81). -/
theorem runs_setoff (h : s.Awaits (commandOps 0x01 a b c d ++ rest) ⟨blob, cursor⟩ file) :
    ∃ t, runs 6 s = .next t ∧ t.Awaits rest ⟨blob, some (a.toNat * 256 + b.toNat)⟩ file := by
  obtain ⟨hl, hw, hpend, hstore, hfile⟩ := h
  refine ⟨_, (transactionDispatchesItsCommand s 0x01 a b c d rest hl hw (fun h => absurd h.1 (by decide)) hpend).trans
    (setoffSeeksToTheOffset a b c _ (by exact ready_of_unbounded hl hw) rfl), hl, hw, rfl, ?_, hfile⟩
  simp [atDispatch, hstore]

/-- The transaction of BKWR writes at the cursor and flushes (R82). -/
theorem runs_bkwr {k : Nat} (h : s.Awaits (commandOps 0x02 a b c d ++ rest) ⟨blob, some k⟩ file) :
    ∃ t, runs 6 s = .next t ∧ t.Awaits rest ⟨blob.write k a, some (k + 1)⟩ (some (blob.write k a)) := by
  obtain ⟨hl, hw, hpend, hstore, hfile⟩ := h
  have hcursor : s.store.cursor = some k := by rw [hstore]
  refine ⟨_, (transactionDispatchesItsCommand s 0x02 a b c d rest hl hw (fun h => absurd h.1 (by decide)) hpend).trans
    (bkwrWritesAtTheCursor a b c _ k (by exact ready_of_unbounded hl hw) rfl hcursor), hl, hw, rfl, ?_, ?_⟩
  all_goals simp [atDispatch, hstore]

/-- The transaction of BKRD up to its acknowledge leaves the store (R83). -/
theorem runs_bkrd (h : s.Awaits (commandOps 0x03 a b c d ++ rest) ⟨blob, cursor⟩ file) :
    ∃ t, runs 6 s = .next t ∧ t.Awaits rest ⟨blob, cursor⟩ file ∧ t.engine = ⟨5, CmdBuffer.ofHeader 0x03 a b c⟩ := by
  obtain ⟨hl, hw, hpend, hstore, hfile⟩ := h
  exact ⟨_, (transactionDispatchesItsCommand s 0x03 a b c d rest hl hw (fun h => absurd h.1 (by decide)) hpend).trans
    (bkrdAcknowledges a b c _ (by exact ready_of_unbounded hl hw) rfl), ⟨hl, hw, rfl, hstore, hfile⟩, rfl⟩

/-- The first continuation of BKRD answers the byte at the cursor (R84). -/
theorem step_bkrd_continuation {k : Nat} {v : Byte} (h : s.Awaits (.exchange d :: rest) ⟨blob, some k⟩ file)
    (he : s.engine = ⟨5, CmdBuffer.ofHeader 0x03 a b c⟩) (hv : blob.read k = some v) :
    ∃ t, step s = .next t ∧ t.Awaits rest ⟨blob, some (k + 1)⟩ file ∧ t.replies.getLast? = some (.byte v) := by
  obtain ⟨hl, hw, hpend, hstore, hfile⟩ := h
  have hp : s.engine.position = 5 := by rw [he]
  have hheader : (if s.engine.position = 3 then s.engine.cmd.set 3 d else s.engine.cmd) =
      CmdBuffer.ofHeader 0x03 a b c := by rw [he]; rfl
  refine ⟨_, (stepRunsTheDecodedCommand s d 0x03 a b c rest _ (ready_of_unbounded hl hw) (by omega) hpend hheader rfl).trans
    (bkrdReadsTheByteAtTheCursor a b c v _ k (by exact ready_of_unbounded hl hw) (by exact hp.ge) ?_ ?_),
    ⟨hl, hw, rfl, ?_, hfile⟩, ?_⟩
  all_goals simp [hstore, hv]

end Transaction

/-- Settles O60: the second SETOFF moves the cursor back to the byte that BKWR wrote. -/
theorem storeRoundTripReturnsTheByte : Obligations.StoreRoundTripReturnsTheByte := by
  intro s a b v x y z c1 c2 c3 c4 d1 d2 d3 d4 d5 rest hl hw hpend
  have hs : s.Awaits _ ⟨s.store.blob, s.store.cursor⟩ s.file := ⟨hl, hw, hpend, rfl, rfl⟩
  simp only [List.append_assoc] at hs
  obtain ⟨s1, h1, hs1⟩ := runs_setoff hs
  obtain ⟨s2, h2, hs2⟩ := runs_bkwr hs1
  obtain ⟨s3, h3, hs3⟩ := runs_setoff hs2
  obtain ⟨s4, h4, hs4, hengine⟩ := runs_bkrd hs3
  obtain ⟨t, h5, ⟨⟨_, hfault⟩, _, hrest, hstore, hfile⟩, hlast⟩ :=
    step_bkrd_continuation hs4 hengine (Blob.read_write_same _ _ _)
  refine ⟨t, _, ?_, hfault, hrest, hlast, by rw [hstore], hfile, Blob.read_write_same _ _ _⟩
  rw [show 25 = 6 + (6 + (6 + (6 + 1))) from rfl, runs_of_runs _ h1, runs_of_runs _ h2, runs_of_runs _ h3, runs_of_runs _ h4,
    runs_one, h5]

end Sys2Proof.Machine
end
